-- ==== Sys2Proof/Word.lean ====
section
/-! DEFINITION. The value widths of the block (spec 00_scope.md R6, R9): every value is unsigned and of a fixed width. -/

namespace Sys2Proof

/-- A byte: a CRC value, a register byte, a PEC, a byte on the wire (R6). -/
abbrev Byte := BitVec 8

/-- A 7-bit SMBus slave address (R6). -/
abbrev Addr := BitVec 7

/-- A 16-bit data word (R6). -/
abbrev Data := BitVec 16

/-- What the read port returns, and the transmit frame register's width (R6, R27). -/
abbrev Port := BitVec 32

/-- A 64-bit command word (R60). -/
abbrev Word := BitVec 64

end Sys2Proof
end

