-- ==== Sys2Proof/Syntax.lean ====
section
/-! DEFINITION. The seven commands of the block (spec 30_encoding.md R63), one constructor per row of the opcode table.
Each operand has the width of its field (R61, R62), so an operand that does not fit cannot be written. -/

namespace Sys2Proof

/-- A command. The names of the operands are those of R61. -/
inductive Instr where
  /-- CRC_LOAD (R85), format B. -/
  | crcLoad (imm8 : Byte)
  /-- CRC_UPDATE (R86), format B. -/
  | crcUpdate (imm8 : Byte)
  /-- CRC_COMPARE (R87), format B. -/
  | crcCompare (imm8 : Byte)
  /-- SET_ADDR (R104), format B: a 7-bit address in an 8-bit field, its range checked when it executes (R62). -/
  | setAddr (imm8 : Byte)
  /-- FRAME_WRITE (R105), format W. -/
  | frameWrite (reg : Byte) (data : Data)
  /-- FRAME_READ (R106), format B; its `imm8` is the register byte. -/
  | frameRead (reg : Byte)
  /-- CHECK_READ (R107), format R: the bytes in the order they cross the bus. -/
  | checkRead (reg lo hi pec : Byte)
deriving DecidableEq, Repr

/-- The mnemonic of a command, as the opcode table spells it (R63). -/
def Instr.mnemonic : Instr → String
  | .crcLoad _ => "CRC_LOAD"
  | .crcUpdate _ => "CRC_UPDATE"
  | .crcCompare _ => "CRC_COMPARE"
  | .setAddr _ => "SET_ADDR"
  | .frameWrite _ _ => "FRAME_WRITE"
  | .frameRead _ => "FRAME_READ"
  | .checkRead _ _ _ _ => "CHECK_READ"

end Sys2Proof
end

