-- ==== Sys2Proof/WellFormed.lean ====
section
/-! DEFINITION. Well-formedness. A written command (an assembler line of spec 30_encoding.md R66) has operands that are plain
numbers; it is well-formed when it has its mnemonic's number of operands and each fits its field. An `Instr` holds its
operands at the fields' widths, so it is well-formed whenever it exists: `Instr.wellFormed` says so through the written form. -/

namespace Sys2Proof

/-- The seven mnemonics of R63. -/
inductive Mnemonic where
  | crcLoad | crcUpdate | crcCompare | setAddr | frameWrite | frameRead | checkRead
deriving DecidableEq, Repr

/-- The mnemonic's spelling in the opcode table (R63). -/
def Mnemonic.text : Mnemonic → String
  | .crcLoad => "CRC_LOAD"
  | .crcUpdate => "CRC_UPDATE"
  | .crcCompare => "CRC_COMPARE"
  | .setAddr => "SET_ADDR"
  | .frameWrite => "FRAME_WRITE"
  | .frameRead => "FRAME_READ"
  | .checkRead => "CHECK_READ"

/-- The widths in bits of a command's operand fields, in the order R66 writes them. -/
def Mnemonic.widths : Mnemonic → List Nat
  | .crcLoad | .crcUpdate | .crcCompare | .setAddr | .frameRead => [8]
  | .frameWrite => [8, 16]
  | .checkRead => [8, 8, 8, 8]

/-- A command as written: a mnemonic and numbers, not yet known to fit (R66). -/
structure Written where
  mnemonic : Mnemonic
  operands : List Nat
deriving DecidableEq, Repr

/-- Check 1: the mnemonic has all its operands and no more. -/
def Written.countOk (c : Written) : Bool := c.operands.length == c.mnemonic.widths.length

/-- Numbers against fields of the given widths, one by one: each number fits its field. -/
def fieldsFit : List Nat → List Nat → Bool
  | n :: ns, w :: ws => decide (n < 2 ^ w) && fieldsFit ns ws
  | [], _ => true
  | _ :: _, [] => true

/-- Check 2: every operand fits its field (R66: otherwise "an assembly error, never truncated"). -/
def Written.fieldsOk (c : Written) : Bool := fieldsFit c.operands c.mnemonic.widths

/-- A written command that stands for a command of the block. -/
def Written.wellFormed (c : Written) : Bool := c.countOk && c.fieldsOk

/-- The written form of a command, operands in the order of R66. -/
def Instr.written : Instr → Written
  | .crcLoad b => ⟨.crcLoad, [b.toNat]⟩
  | .crcUpdate b => ⟨.crcUpdate, [b.toNat]⟩
  | .crcCompare b => ⟨.crcCompare, [b.toNat]⟩
  | .setAddr b => ⟨.setAddr, [b.toNat]⟩
  | .frameWrite reg data => ⟨.frameWrite, [reg.toNat, data.toNat]⟩
  | .frameRead reg => ⟨.frameRead, [reg.toNat]⟩
  | .checkRead reg lo hi pec => ⟨.checkRead, [reg.toNat, lo.toNat, hi.toNat, pec.toNat]⟩

/-- An instruction is well-formed when its written form is. -/
def Instr.wellFormed (i : Instr) : Bool := i.written.wellFormed

end Sys2Proof
end

