-- ==== Sys2Proof/Decode.lean ====
section
/-! DEFINITION. The command word (spec 30_encoding.md R60, R61), its decoding, total over all 2^64 words (R64, R65), the encoder,
and the opcode map as match and mask (R63). -/

namespace Sys2Proof

/-- Why a word is illegal (R64). The block does not record the reason; the name is the model's (log 10). -/
inductive Illegal where
  /-- `OP` is not in the map of R63. -/
  | unassignedOpcode
  /-- `RSV` is not zero. -/
  | reservedField
  /-- a reserved bit of `ARG` in the opcode's format is not zero. -/
  | reservedArgument
deriving DecidableEq, Repr

/-- `OP = word[63:56]` (R60). -/
def opField (w : Word) : Byte := w.extractLsb' 56 8

/-- `RSV = word[55:32]` (R60). -/
def rsvField (w : Word) : BitVec 24 := w.extractLsb' 32 24

/-- `ARG = word[31:0]` (R60). -/
def argField (w : Word) : BitVec 32 := w.extractLsb' 0 32

/-- Format B (R61): `ARG[31:8]` reserved, `imm8 = ARG[7:0]`. -/
def formatB (arg : BitVec 32) (mk : Byte → Instr) : Except Illegal Instr :=
  if arg.extractLsb' 8 24 = 0#24 then .ok (mk (arg.extractLsb' 0 8)) else .error .reservedArgument

/-- Format W (R61): `ARG[31:24]` reserved, `reg = ARG[23:16]`, `data = ARG[15:0]`. -/
def formatW (arg : BitVec 32) (mk : Byte → Data → Instr) : Except Illegal Instr :=
  if arg.extractLsb' 24 8 = 0#8 then .ok (mk (arg.extractLsb' 16 8) (arg.extractLsb' 0 16)) else .error .reservedArgument

/-- Format R (R61): `reg`, `lo`, `hi`, `pec` from the top byte down; no reserved bits. -/
def formatR (arg : BitVec 32) (mk : Byte → Byte → Byte → Byte → Instr) : Except Illegal Instr :=
  .ok (mk (arg.extractLsb' 24 8) (arg.extractLsb' 16 8) (arg.extractLsb' 8 8) (arg.extractLsb' 0 8))

/-- The opcode map of R63: the argument reader of an assigned opcode. -/
def readArgument (op : Byte) (arg : BitVec 32) : Option (Except Illegal Instr) :=
  if op = 0x01#8 then some (formatB arg .crcLoad)
  else if op = 0x02#8 then some (formatB arg .crcUpdate)
  else if op = 0x03#8 then some (formatB arg .crcCompare)
  else if op = 0x10#8 then some (formatB arg .setAddr)
  else if op = 0x11#8 then some (formatW arg .frameWrite)
  else if op = 0x12#8 then some (formatB arg .frameRead)
  else if op = 0x13#8 then some (formatR arg .checkRead)
  else none

/-- The decoder (R65): every word is one of the seven commands or illegal (R64), before any operand is looked at. -/
def decode (w : Word) : Except Illegal Instr :=
  match readArgument (opField w) (argField w) with
  | none => .error .unassignedOpcode
  | some r => if rsvField w = 0#24 then r else .error .reservedField

/-- The opcode of a command (R63). -/
def Instr.opcode : Instr → Byte
  | .crcLoad _ => 0x01
  | .crcUpdate _ => 0x02
  | .crcCompare _ => 0x03
  | .setAddr _ => 0x10
  | .frameWrite _ _ => 0x11
  | .frameRead _ => 0x12
  | .checkRead _ _ _ _ => 0x13

/-- The argument of a command, laid out by its format (R61). -/
def Instr.argument : Instr → BitVec 32
  | .crcLoad b | .crcUpdate b | .crcCompare b | .setAddr b | .frameRead b => 0#24 ++ b
  | .frameWrite reg data => 0#8 ++ reg ++ data
  | .checkRead reg lo hi pec => reg ++ lo ++ hi ++ pec

/-- The encoder: `OP ++ RSV ++ ARG` with `RSV` zero (R60). -/
def encode (i : Instr) : Word := i.opcode ++ 0#24 ++ i.argument

/-- The word that `nbits` bits of `w` stand for: the bits above `nbits` are zero, and a word has 64 (R60). -/
def tableWord (nbits w : Nat) : Word := BitVec.ofNat 64 (w % 2 ^ nbits)

/-- What the decoder reads from `nbits` bits numbered as the opcode table numbers them. A number that needs more than
the 64 bits of a command word is no command word (log 11). -/
def decodeTableWord (nbits w : Nat) : Option Instr :=
  if w % 2 ^ nbits < 2 ^ 64 then (decode (tableWord nbits w)).toOption else none

/-- A row of the opcode map in its match and mask form (R63). -/
structure Row where
  mnemonic : String
  pattern : Word
  mask : Word
deriving DecidableEq, Repr

/-- A word is of a row when the bits the row fixes have the row's values. -/
def Row.covers (r : Row) (w : Word) : Bool := w &&& r.mask == r.pattern

/-- The table below R63. -/
def opcodeTable : List Row :=
  [⟨"CRC_LOAD", 0x0100000000000000, 0xFFFFFFFFFFFFFF00⟩,
   ⟨"CRC_UPDATE", 0x0200000000000000, 0xFFFFFFFFFFFFFF00⟩,
   ⟨"CRC_COMPARE", 0x0300000000000000, 0xFFFFFFFFFFFFFF00⟩,
   ⟨"SET_ADDR", 0x1000000000000000, 0xFFFFFFFFFFFFFF00⟩,
   ⟨"FRAME_WRITE", 0x1100000000000000, 0xFFFFFFFFFF000000⟩,
   ⟨"FRAME_READ", 0x1200000000000000, 0xFFFFFFFFFFFFFF00⟩,
   ⟨"CHECK_READ", 0x1300000000000000, 0xFFFFFFFF00000000⟩]

end Sys2Proof
end

