-- ==== Sys2Proof/Config.lean ====
section
/-! DEFINITION. What is fixed for one instance of the block (spec 00_scope.md R6 to R8) and the parameters the spec leaves
open (R7), which have no body here: no proof can see a value of theirs (log 1). -/

namespace Sys2Proof

/-- The block's parameters (R7). They are configuration: no command and no reset writes them. A set is given by its
members; order and repetition carry no meaning. -/
structure Params where
  protectedRegs : List Byte
  reservedAddrs : List Addr
deriving DecidableEq, Repr

/-- `PROTECTED` of R7: the register bytes FRAME_WRITE must refuse. -/
def Params.isProtected (p : Params) (reg : Byte) : Bool := p.protectedRegs.contains reg

/-- `RESERVED_ADDR` of R7: the slave addresses SET_ADDR must refuse. -/
def Params.isReserved (p : Params) (a : Addr) : Bool := p.reservedAddrs.contains a

namespace Config

/-- The truncated generator polynomial x^8 + x^2 + x + 1 (R2, R6). -/
def crcPoly : Byte := 0x07

/-- The initial value of every PEC the framer computes (R6, R100). -/
def crcInit : Byte := 0x00

/-- The default slave address (R8). -/
def defaultAddr : Addr := 0x5A

/-- `PROTECTED`, which the spec leaves open (R7, D10): DESIGN CHOICE of form, log 1; no value is chosen. -/
opaque protectedRegs : List Byte

/-- `RESERVED_ADDR`, which the spec leaves open (R7, D11): DESIGN CHOICE of form, log 1; no value is chosen. -/
opaque reservedAddrs : List Addr

/-- The parameters of the instance that `State.reset` describes. -/
def params : Params := ⟨protectedRegs, reservedAddrs⟩

/-- The least wait after the erase of an EEPROM cell, in milliseconds (R162). -/
def tEraseMs : Nat := 5

/-- The least wait after the write of an EEPROM cell, in milliseconds (R162). -/
def tWriteMs : Nat := 5

end Config

end Sys2Proof
end

