-- ==== Sys2Proof/Machine/State.lean ====
section
/-! DEFINITION. The state: the block's five registers (spec 10_state.md R20), the parameters of the instance (00_scope.md R7), and
the host's side of the two ports (60_exceptions.md R140, R141), all plain data; the outcomes a step can stop with; and reset. -/

namespace Sys2Proof.Machine

/-- The block's registers: exactly the five of R20, `STATUS` by its three fields. -/
structure Regs where
  /-- `CRC`, the CRC accumulator (R23). -/
  crc : Byte
  /-- `SA`, the slave address (R24). -/
  sa : Addr
  /-- `STATUS.CODE`, the result code of the last command (R25, R26). -/
  code : BitVec 3
  /-- `STATUS.RDV`, whether `RDATA` holds an accepted value (R25). -/
  rdv : Bool
  /-- `STATUS.TXLEN`, the number of valid bytes in `TXF` (R25). -/
  txlen : BitVec 3
  /-- `TXF`, the transmit frame; byte 0 is the least significant (R27). -/
  txf : Port
  /-- `RDATA`, the read data (R28). -/
  rdata : Data
deriving DecidableEq, Repr

/-- The register values after reset (R29). -/
def Regs.reset : Regs :=
  { crc := 0x00, sa := Config.defaultAddr, code := 0, rdv := false, txlen := 0, txf := 0x00000000, rdata := 0x0000 }

/-- What can reach the block (R141): a command word, a register read, the reset input. The last constructor is not a request
of the host but of an unserialised second caller (R140, U1). -/
inductive Request where
  | command (w : Word)
  | read (idx : Byte)
  | reset
  | unserialised
deriving DecidableEq, Repr

/-- The host's side (R140: its commands and reads form one sequence). The model's own fields, logs 2 and 3. -/
structure HostSide where
  /-- the requests still to come, oldest first. -/
  script : List Request
  /-- what the read port has answered, as (index, value), oldest first. -/
  replies : List (Byte × Port)
deriving DecidableEq, Repr

/-- The whole machine: the block's registers, the instance's parameters, the host's side. -/
structure State where
  regs : Regs
  params : Params
  host : HostSide
deriving DecidableEq, Repr

/-- The block has no trap and stops for none (R131), so there is no fault: nothing raises one, and that is safe (log 5). -/
inductive Fault where
deriving DecidableEq, Repr

/-- Why a step is given no meaning. -/
inductive Refusal where
  /-- an instruction that exec has no meaning for; no arm answers it. Safe. -/
  | notModelled (mnemonic : String)
  /-- raised by a request of a second, unserialised caller: the spec asks a model to refuse such a run (R140, U1). Safe (log 4). -/
  | unserialisedHost
deriving DecidableEq, Repr

/-- The machine right after reset: the registers of R29, the instance's parameters (open, log 1), nothing requested (log 2)
and nothing answered (log 3). -/
def State.reset : State := { regs := Regs.reset, params := Config.params, host := { script := [], replies := [] } }

end Sys2Proof.Machine
end

