-- ==== Sys2Proof/Machine/Flags.lean ====
section
/-! DEFINITION. STATUS as the read port shows it (spec 10_state.md R25) and the read port's values (20_memory.md R41). The block has no
condition codes (10_state.md R30). -/

namespace Sys2Proof.Machine

/-- `STATUS` as the read port shows it (R25): `CODE` in bits 2:0, `RDV` in bit 3, `TXLEN` in bits 6:4, zeros above. -/
def Regs.status (r : Regs) : Port := 0#25 ++ r.txlen ++ BitVec.ofBool r.rdv ++ r.code

/-- `RegRead(idx)` (20_memory.md R41). -/
def Regs.read (r : Regs) (idx : Byte) : Port :=
  if idx = 0x00#8 then r.crc.setWidth 32
  else if idx = 0x01#8 then r.sa.setWidth 32
  else if idx = 0x02#8 then r.status
  else if idx = 0x03#8 then r.txf
  else if idx = 0x04#8 then r.rdata.setWidth 32
  else 0

/-- `STATUS.CODE` of a STATUS value the host has read (R25). -/
def statusCode (v : Port) : BitVec 3 := v.extractLsb' 0 3

/-- `STATUS.RDV` of a STATUS value the host has read (R25). -/
def statusRdv (v : Port) : Bool := v.getLsbD 3

/-- `STATUS.TXLEN` of a STATUS value the host has read (R25). -/
def statusTxlen (v : Port) : BitVec 3 := v.extractLsb' 4 3

end Sys2Proof.Machine
end

