-- ==== Sys2Proof/Machine/Operands.lean ====
section
/-! DEFINITION. The operands and the byte sequences the framer makes of them: the halves of a data word (spec 30_encoding.md R61,
20_memory.md R44), the address bytes (41_framer.md R101), the bytes each PEC covers (R102, R103), and the packing of
`TXF` and `RDATA` (10_state.md R27, R28). -/

namespace Sys2Proof.Machine

/-- `lo = data[7:0]`, first on the wire (R44, R61). -/
def dataLo (data : Data) : Byte := data.extractLsb' 0 8

/-- `hi = data[15:8]`, second on the wire (R44, R61). -/
def dataHi (data : Data) : Byte := data.extractLsb' 8 8

/-- `wAddr(a)`, the write-address byte (R101). -/
def wAddr (a : Addr) : Byte := a.setWidth 8 <<< 1

/-- `rAddr(a)`, the read-address byte (R101). -/
def rAddr (a : Addr) : Byte := (a.setWidth 8 <<< 1) ||| 0x01

/-- The address of SET_ADDR's operand, `imm8[6:0]` (R104). -/
def addrOf (imm8 : Byte) : Addr := imm8.extractLsb' 0 7

/-- Whether SET_ADDR must refuse its operand (R104): above 0x7F, or a reserved address. -/
def refusesAddr (p : Params) (imm8 : Byte) : Bool := imm8.getLsbD 7 || p.isReserved (addrOf imm8)

/-- The four bytes the write PEC covers (R102). -/
def writeBytes (sa : Addr) (reg : Byte) (data : Data) : List Byte := [wAddr sa, reg, dataLo data, dataHi data]

/-- The five bytes the read PEC covers (R103). -/
def readBytes (sa : Addr) (reg lo hi : Byte) : List Byte := [wAddr sa, reg, rAddr sa, lo, hi]

/-- `wpec(SA, reg, data)` (R102), always from the initial value (R100). -/
def wpec (sa : Addr) (reg : Byte) (data : Data) : Byte := crcSeq Config.crcInit (writeBytes sa reg data)

/-- `rpec(SA, reg, lo, hi)` (R103), always from the initial value (R100). -/
def rpec (sa : Addr) (reg lo hi : Byte) : Byte := crcSeq Config.crcInit (readBytes sa reg lo hi)

/-- `TXF` of a write frame, `PEC ++ hi ++ lo ++ reg` (R27). -/
def packWrite (pec reg : Byte) (data : Data) : Port := pec ++ dataHi data ++ dataLo data ++ reg

/-- `TXF` of a read's command frame, `zext_32(reg)` (R27). -/
def packRead (reg : Byte) : Port := reg.setWidth 32

/-- `RDATA` of an accepted response, `hi ++ lo` (R28). -/
def packData (lo hi : Byte) : Data := hi ++ lo

/-- Byte i of `TXF`, `TXF[8i+7:8i]` (R27). -/
def frameByte (txf : Port) (i : Nat) : Byte := txf.extractLsb' (8 * i) 8

/-- The bytes the host sends of a STATUS value and a TXF value it has read: bytes 0 to `TXLEN - 1`, byte 0 first
(R27, R141). -/
def frameOf (status txf : Port) : List Byte := (List.range (statusTxlen status).toNat).map (frameByte txf)

/-- The frame as the host gets it through the read port (R27, R41). -/
def Regs.frame (r : Regs) : List Byte := frameOf (r.read 0x02#8) (r.read 0x03#8)

end Sys2Proof.Machine
end

