-- ==== Sys2Proof/Machine/Crc.lean ====
section
/-! DEFINITION. The CRC commands (spec 40_crc.md R85 to R87). -/

namespace Sys2Proof.Machine

/-- CRC_LOAD (R85): `CRC <- imm8; done`. -/
def execCrcLoad (imm8 : Byte) (s : State) : Host.Outcome State Fault Refusal := .next (s.setCrc imm8).finish

/-- CRC_UPDATE (R86): `CRC <- crc8(CRC, imm8); done`. -/
def execCrcUpdate (imm8 : Byte) (s : State) : Host.Outcome State Fault Refusal :=
  .next (s.setCrc (crc8 s.regs.crc imm8)).finish

/-- CRC_COMPARE (R87): `if CRC = imm8 then done else fail(CHECKSUM)`. -/
def execCrcCompare (imm8 : Byte) (s : State) : Host.Outcome State Fault Refusal :=
  .next (if s.regs.crc = imm8 then s.finish else s.fail codeChecksum)

end Sys2Proof.Machine
end

