-- ==== Sys2Proof/Machine/Framer.lean ====
section
/-! DEFINITION. The framer commands (spec 41_framer.md R104 to R107). -/

namespace Sys2Proof.Machine

/-- SET_ADDR (R104): refused with RANGE, or `SA <- imm8[6:0]; done`. -/
def execSetAddr (imm8 : Byte) (s : State) : Host.Outcome State Fault Refusal :=
  .next (if refusesAddr s.params imm8 then s.fail codeRange else (s.setSa (addrOf imm8)).finish)

/-- A write frame stands ready (R105): its PEC in `CRC`, its bytes in `TXF`, `TXLEN` 4. -/
def State.frameWrite (s : State) (reg : Byte) (data : Data) : State :=
  let p := wpec s.regs.sa reg data
  ((s.setCrc p).setTxf (packWrite p reg data)).setTxlen 4

/-- FRAME_WRITE (R105): refused with PROTECTED before any PEC is computed, `TXLEN` 0; or the frame is built. -/
def execFrameWrite (reg : Byte) (data : Data) (s : State) : Host.Outcome State Fault Refusal :=
  .next (if s.params.isProtected reg then (s.setTxlen 0).fail codeProtected else (s.frameWrite reg data).finish)

/-- FRAME_READ (R106): `TXF <- zext_32(imm8); STATUS.TXLEN <- 1; done`. -/
def execFrameRead (reg : Byte) (s : State) : Host.Outcome State Fault Refusal :=
  .next ((s.setTxf (packRead reg)).setTxlen 1).finish

/-- CHECK_READ (R107): the recomputed PEC goes to `CRC`; a match accepts the data, a mismatch clears `RDV`. -/
def execCheckRead (reg lo hi pec : Byte) (s : State) : Host.Outcome State Fault Refusal :=
  let p := rpec s.regs.sa reg lo hi
  let t := s.setCrc p
  .next (if p = pec then ((t.setRdata (packData lo hi)).setRdv true).finish else (t.setRdv false).fail codeChecksum)

end Sys2Proof.Machine
end

