-- ==== Sys2Proof/Machine/Dispatch.lean ====
section
/-! DEFINITION. The dispatch: one arm per command (spec 30_encoding.md R63), each one direct call of its meaning. -/

namespace Sys2Proof.Machine

def exec (i : Instr) (s : State) : Host.Outcome State Fault Refusal :=
  match i with
  | .crcLoad imm8 => Sys2Proof.Machine.execCrcLoad imm8 s
  | .crcUpdate imm8 => Sys2Proof.Machine.execCrcUpdate imm8 s
  | .crcCompare imm8 => Sys2Proof.Machine.execCrcCompare imm8 s
  | .setAddr imm8 => Sys2Proof.Machine.execSetAddr imm8 s
  | .frameWrite reg data => Sys2Proof.Machine.execFrameWrite reg data s
  | .frameRead reg => Sys2Proof.Machine.execFrameRead reg s
  | .checkRead reg lo hi pec => Sys2Proof.Machine.execCheckRead reg lo hi pec s

end Sys2Proof.Machine
end

