-- ==== Sys2Proof/Machine/Port.lean ====
section
/-! DEFINITION. The block's interfaces (spec 20_memory.md R40): the command port, the read port, the reset input, and how a
request of the host is served. -/

namespace Sys2Proof.Machine

/-- The command port (R40, R45): a word is decoded and its command executed, or it is illegal (R64). -/
def commandPort (w : Word) (s : State) : Host.Outcome State Fault Refusal :=
  match decode w with
  | .ok i => exec i s
  | .error _ => .next s.illegal

/-- The host is given the read port's answer (R41). The registers are only looked at; the answer is the host's (log 3). -/
def State.answerRead (s : State) (idx : Byte) : State :=
  { s with host := { s.host with replies := s.host.replies ++ [(idx, s.regs.read idx)] } }

/-- One request, served to its end (R45, R141, R160); a second caller's is refused (R140, U1). -/
def serve (q : Request) (s : State) : Host.Outcome State Fault Refusal :=
  match q with
  | .command w => commandPort w s
  | .read idx => .next (s.answerRead idx)
  | .reset => .next s.resetBlock
  | .unserialised => .refused .unserialisedHost

/-- The state once the host's oldest request is taken; `rest` is what it still has to issue. -/
def State.take (s : State) (rest : List Request) : State := { s with host := { s.host with script := rest } }

/-- The host issues `q` before all it still has to issue. -/
def State.issueFirst (s : State) (q : Request) : State := s.take (q :: s.host.script)

end Sys2Proof.Machine
end

