-- ==== Sys2Proof/Machine/Step.lean ====
section
/-! DEFINITION. One step: the host's oldest request is taken and served (spec 20_memory.md R45). -/

namespace Sys2Proof.Machine

/-- One step. With no request the block waits and nothing changes (70_reset_and_hazards.md R160, 60_exceptions.md R141; log 6). -/
def step (s : State) : Host.Outcome State Fault Refusal :=
  match s.host.script with
  | [] => .next s
  | q :: rest => serve q (s.take rest)

/-- The state whose very next step serves the command word `w` (its bits above `nbits` zero): the host issues it before all
it still has to issue. The block fetches nothing (10_state.md R21); how a program comes to run is log 2. -/
def State.withFetchWord (s : State) (nbits w : Nat) : State := s.issueFirst (.command (tableWord nbits w))

end Sys2Proof.Machine
end

