-- ==== Sys2Proof/Machine/Asm.lean ====
section
/-! DEFINITION. The assembler (spec 30_encoding.md R66) and the pseudo-commands (R67). An assembler belongs to the host: the block
sees only the command words. What R66 leaves open about the text is log 7. -/

namespace Sys2Proof.Machine

/-- What a host does between two commands, as R67 writes it after `host:`. -/
inductive HostAct where
  /-- "if `STATUS.CODE` = OK send `TXF` bytes 0 to 3 through the transport" (of WRITE_WORD). -/
  | sendFrameIfOk
  /-- "send `TXF` byte 0, receive three bytes `lo, hi, pec`" (of READ_WORD). -/
  | readTransaction
  /-- "wait ≥ ms". -/
  | wait (ms : Nat)
deriving DecidableEq, Repr

/-- One step of an expansion: a command, an action of the host, or the CHECK_READ of the three bytes just received. -/
inductive Item where
  | command (i : Instr)
  | host (a : HostAct)
  | checkReceived (reg : Byte)
deriving DecidableEq, Repr

/-- The pseudo-commands of R67. -/
inductive Pseudo where
  | crcBytes (bytes : List Byte)
  | crcOf (bytes : List Byte)
  | writeWord (reg : Byte) (data : Data)
  | readWord (reg : Byte)
  | eepromWrite (reg : Byte) (data : Data)
deriving DecidableEq, Repr

/-- WRITE_WORD's expansion (R67). -/
def writeWordItems (reg : Byte) (data : Data) : List Item := [.command (.frameWrite reg data), .host .sendFrameIfOk]

/-- One phase of EEPROM_WRITE (R67, R109): a write and its wait. -/
def phaseItems (reg : Byte) (data : Data) (ms : Nat) : List Item := writeWordItems reg data ++ [.host (.wait ms)]

/-- The expansions of R67. -/
def Pseudo.expand : Pseudo → List Item
  | .crcBytes bytes => bytes.map fun b => .command (.crcUpdate b)
  | .crcOf bytes => .command (.crcLoad 0x00) :: bytes.map fun b => .command (.crcUpdate b)
  | .writeWord reg data => writeWordItems reg data
  | .readWord reg => [.command (.frameRead reg), .host .readTransaction, .checkReceived reg]
  | .eepromWrite reg data => phaseItems reg 0x0000 Config.tEraseMs ++ phaseItems reg data Config.tWriteMs

/-- Why a line does not assemble. -/
inductive AsmError where
  | unknownMnemonic
  | badNumber
  | operandCount
  /-- "An operand that does not fit its field ... is an assembly error, never truncated" (R66). -/
  | operandTooLarge
deriving DecidableEq, Repr

/-- A number as a field of `w` bits, refused when it does not fit (R66). -/
def fit (w n : Nat) : Except AsmError (BitVec w) := if n < 2 ^ w then .ok (BitVec.ofNat w n) else .error .operandTooLarge

/-- The command a written command stands for (R66). -/
def assemble (c : Written) : Except AsmError Instr :=
  match c.mnemonic, c.operands with
  | .crcLoad, [b] => do .ok (.crcLoad (← fit 8 b))
  | .crcUpdate, [b] => do .ok (.crcUpdate (← fit 8 b))
  | .crcCompare, [b] => do .ok (.crcCompare (← fit 8 b))
  | .setAddr, [b] => do .ok (.setAddr (← fit 8 b))
  | .frameWrite, [reg, data] => do .ok (.frameWrite (← fit 8 reg) (← fit 16 data))
  | .frameRead, [reg] => do .ok (.frameRead (← fit 8 reg))
  | .checkRead, [reg, lo, hi, pec] => do .ok (.checkRead (← fit 8 reg) (← fit 8 lo) (← fit 8 hi) (← fit 8 pec))
  | _, _ => .error .operandCount

/-- The bytes of a pseudo-command's list, each of which must fit. -/
def fitBytes : List Nat → Except AsmError (List Byte)
  | [] => .ok []
  | n :: rest => do .ok ((← fit 8 n) :: (← fitBytes rest))

/-- A pseudo-command by its name and operands (R67); `none` when the name is not one. -/
def assemblePseudo (name : String) (operands : List Nat) : Option (Except AsmError Pseudo) :=
  if name == "CRC_BYTES" then
    some (if operands.isEmpty then .error .operandCount else do .ok (.crcBytes (← fitBytes operands)))
  else if name == "CRC_OF" then
    some (if operands.isEmpty then .error .operandCount else do .ok (.crcOf (← fitBytes operands)))
  else if name == "WRITE_WORD" then
    some (match operands with
      | [reg, data] => do .ok (.writeWord (← fit 8 reg) (← fit 16 data))
      | _ => .error .operandCount)
  else if name == "READ_WORD" then
    some (match operands with
      | [reg] => do .ok (.readWord (← fit 8 reg))
      | _ => .error .operandCount)
  else if name == "EEPROM_WRITE" then
    some (match operands with
      | [reg, data] => do .ok (.eepromWrite (← fit 8 reg) (← fit 16 data))
      | _ => .error .operandCount)
  else none

/-- The mnemonics an assembler line can begin with (R63). -/
def mnemonics : List Mnemonic := [.crcLoad, .crcUpdate, .crcCompare, .setAddr, .frameWrite, .frameRead, .checkRead]

/-- The mnemonic of a name. -/
def mnemonicOf (name : String) : Option Mnemonic := mnemonics.find? fun m => m.text == name

/-- A named line with its operands: a command, or a pseudo-command's expansion (R66, R67). -/
def assembleNamed (name : String) (operands : List Nat) : Except AsmError (List Item) :=
  match mnemonicOf name with
  | some m => do .ok [.command (← assemble ⟨m, operands⟩)]
  | none =>
    match assemblePseudo name operands with
    | some r => do .ok (← r).expand
    | none => .error .unknownMnemonic

/-- White space inside a line (log 7). -/
def isBlank (c : Char) : Bool := c == ' ' || c == '\t' || c == '\r'

/-- A text without the white space at its ends. -/
def trimText (cs : List Char) : List Char := ((cs.dropWhile isBlank).reverse.dropWhile isBlank).reverse

/-- The value of a digit, hexadecimal letters in either case (log 7). -/
def digitValue (c : Char) : Option Nat :=
  if 48 ≤ c.toNat ∧ c.toNat ≤ 57 then some (c.toNat - 48)
  else if 65 ≤ c.toNat ∧ c.toNat ≤ 70 then some (c.toNat - 55)
  else if 97 ≤ c.toNat ∧ c.toNat ≤ 102 then some (c.toNat - 87)
  else none

/-- The number that digits spell in a base, after those already read into `acc`. -/
def readDigits (base : Nat) : Nat → List Char → Option Nat
  | acc, [] => some acc
  | acc, c :: rest =>
    match digitValue c with
    | some d => if d < base then readDigits base (acc * base + d) rest else none
    | none => none

/-- A number, "hexadecimal with `0x` or decimal" (R66), with at least one digit. -/
def readNumber : List Char → Option Nat
  | '0' :: 'x' :: digits => if digits.isEmpty then none else readDigits 16 0 digits
  | [] => none
  | digits => readDigits 10 0 digits

/-- The pieces of a text between its commas. -/
def splitCommas : List Char → List (List Char)
  | [] => [[]]
  | c :: rest =>
    if c == ',' then [] :: splitCommas rest
    else match splitCommas rest with
      | piece :: pieces => (c :: piece) :: pieces
      | [] => [[c]]

/-- The operands of a line, "separated by commas" (R66); a text of white space alone has none. -/
def readOperands (cs : List Char) : Option (List Nat) :=
  if (trimText cs).isEmpty then some [] else (splitCommas cs).mapM fun piece => readNumber (trimText piece)

/-- One assembler line (R66): a comment from `;` on is dropped, then a mnemonic and its operands. An empty line assembles to
nothing (log 7). -/
def assembleLine (line : String) : Except AsmError (List Item) :=
  let text := trimText (line.toList.takeWhile fun c => c != ';')
  if text.isEmpty then .ok []
  else
    let name := String.ofList (text.takeWhile fun c => !isBlank c)
    match readOperands (text.dropWhile fun c => !isBlank c) with
    | some operands => assembleNamed name operands
    | none => .error .badNumber

end Sys2Proof.Machine
end

