-- ==== Sys2Proof/Machine/HostDriver.lean ====
section
/-! DEFINITION. The host's obligations on this path (spec 00_scope.md R4(g)): the sequences a correct host runs over the block's
ports (41_framer.md R109, R110; 70_reset_and_hazards.md R161 to R163) and what it reports (60_exceptions.md R136). The transport
is outside (R5): its answers are given in advance as plain data (log 8). -/

namespace Sys2Proof.Machine

/-- The error kinds of the source that a run over this path can report: those that stand for a result code (R132 to R135) and
those of the host and transport (R136). -/
inductive HostError where
  /-- "bus open failed — fatal to start" (R136). -/
  | connection
  /-- "write/read I/O failure" (R136). -/
  | transport
  /-- "device-ID or slave-address mismatch at initialization" (R136). -/
  | validation
  /-- result code CHECKSUM (R132). -/
  | checksum
  /-- result code PROTECTED (R133). -/
  | protectedRegister
  /-- result code RANGE (R134). -/
  | range
  /-- result code ILLEGAL, the spec's own (R135), or a code no rule writes. -/
  | illegal
deriving DecidableEq, Repr

/-- What happens on the bus and in host time, in order. -/
inductive BusEvent where
  /-- a write of these bytes was given to the transport, which carried it out or failed. -/
  | sent (frame : List Byte) (ok : Bool)
  /-- a read: the command bytes sent and the three bytes received, or none when the transport failed. -/
  | received (command : List Byte) (response : Option (Byte × Byte × Byte))
  /-- the host waited at least this long, in milliseconds. -/
  | waited (ms : Nat)
deriving DecidableEq, Repr

/-- The host at work. -/
structure Driver where
  /-- the block, reached through its ports alone. -/
  block : State
  /-- whether each write still to come succeeds; none left means failure (log 8). -/
  acks : List Bool
  /-- the response of each read still to come, `none` for a transport error; none left means failure (log 8). -/
  responses : List (Option (Byte × Byte × Byte))
  /-- the three bytes of the last read, `lo, hi, pec`. -/
  received : Option (Byte × Byte × Byte)
  /-- what has happened, oldest first. -/
  log : List BusEvent
  /-- the first error of the operation under way. -/
  error : Option HostError
deriving DecidableEq, Repr

/-- The error a result code stands for (R26, R132 to R135). -/
def codeError (c : BitVec 3) : Option HostError :=
  if c = codeOk then none
  else if c = codeChecksum then some .checksum
  else if c = codeProtected then some .protectedRegister
  else if c = codeRange then some .range
  else some .illegal

/-- `STATUS.CODE` as the host reads it after a command (R41, R164). -/
def Driver.code (d : Driver) : BitVec 3 := statusCode (d.block.regs.read 0x02#8)

/-- The operation's first error is kept. -/
def Driver.note (d : Driver) (e : Option HostError) : Driver := { d with error := d.error <|> e }

/-- The host issues a command and reads its result code (R141, R164). -/
def Driver.issue (d : Driver) (i : Instr) : Host.Outcome Driver Fault Refusal :=
  match commandPort (encode i) d.block with
  | .next b => .next (({ d with block := b } : Driver).note (codeError (statusCode (b.regs.read 0x02#8))))
  | .fault f => .fault f
  | .refused r => .refused r

/-- The host gives the frame of `TXF` to the transport: exactly `TXLEN` bytes, byte 0 first (R141). -/
def Driver.send (d : Driver) : Driver :=
  let ok := d.acks.headD false
  ({ d with acks := d.acks.tail, log := d.log ++ [.sent d.block.regs.frame ok] } : Driver).note
    (if ok then none else some .transport)

/-- The host sends the read's command byte and receives the response (R110); which way the bytes are obtained does not matter
(U2). -/
def Driver.transact (d : Driver) : Driver :=
  let r := d.responses.headD none
  { d with responses := d.responses.tail, received := r, log := d.log ++ [.received d.block.regs.frame r] }

/-- One item of an expansion (R67). CHECK_READ is not issued without its three bytes (R110). -/
def Driver.perform (d : Driver) : Item → Host.Outcome Driver Fault Refusal
  | .command i => d.issue i
  | .checkReceived reg =>
    match d.received with
    | some (lo, hi, pec) => d.issue (.checkRead reg lo hi pec)
    | none => .next d
  | .host .sendFrameIfOk => .next (if d.code = codeOk then d.send else d)
  | .host .readTransaction =>
    .next (d.transact.note (if d.transact.received.isNone then some .transport else none))
  | .host (.wait ms) => .next { d with log := d.log ++ [.waited ms] }

/-- The items in order, all of them: an error of one does not keep the next from being tried (R109). -/
def Driver.performAll (d : Driver) : List Item → Host.Outcome Driver Fault Refusal
  | [] => .next d
  | x :: rest =>
    match d.perform x with
    | .next d' => d'.performAll rest
    | .fault f => .fault f
    | .refused r => .refused r

/-- An operation begins with no error. -/
def Driver.begin (d : Driver) : Driver := { d with error := none }

/-- What a register write reports: each phase's own failure (R109). A write without an erase phase has no failure of one. -/
structure WriteReport where
  driver : Driver
  /-- the failure of the erase phase. -/
  erase : Option HostError
  /-- the failure of the write phase. -/
  write : Option HostError
deriving DecidableEq, Repr

/-- The EEPROM write sequence (R109): erase, wait, write, wait, in that order, the write tried even if the erase failed. -/
def Driver.eepromWrite (d : Driver) (reg : Byte) (data : Data) : Host.Outcome WriteReport Fault Refusal :=
  match d.begin.performAll (phaseItems reg 0x0000 Config.tEraseMs) with
  | .next e =>
    match e.begin.performAll (phaseItems reg data Config.tWriteMs) with
    | .next w => .next { driver := w, erase := e.error, write := w.error }
    | .fault f => .fault f
    | .refused r => .refused r
  | .fault f => .fault f
  | .refused r => .refused r

/-- The bounded retry of a read (R163): repeated on a transport error only; a response is checked once, and a checksum mismatch
is reported, never retried. -/
def Driver.readAttempts (d : Driver) (reg : Byte) : Nat → Host.Outcome Driver Fault Refusal
  | 0 => .next (d.note (some .transport))
  | n + 1 =>
    match d.transact.received with
    | some _ => d.transact.perform (.checkReceived reg)
    | none => d.transact.readAttempts reg n

/-- The read sequence (R110) with at most `maxAttempts` transport reads (R163, D30): FRAME_READ once, then the attempts. -/
def Driver.readWord (d : Driver) (maxAttempts : Nat) (reg : Byte) : Host.Outcome Driver Fault Refusal :=
  match d.begin.issue (.frameRead reg) with
  | .next e => e.readAttempts reg maxAttempts
  | .fault f => .fault f
  | .refused r => .refused r

/-- What the caller of a read gets: `RDATA` only when no error stands (R110). -/
def Driver.value (d : Driver) : Except HostError Data :=
  match d.error with
  | some e => .error e
  | none => .ok ((d.block.regs.read 0x04#8).setWidth 16)

/-- The start protocol (R161): open at the configured address, read back the stored address, report ValidationError on a
difference. Which register holds it (`reg`) and how it is compared (`same`) are not in the source (N9): arguments. -/
def Driver.start (d : Driver) (opened : Bool) (a : Byte) (maxAttempts : Nat) (reg : Byte) (same : Byte → Data → Bool) :
    Host.Outcome Driver Fault Refusal :=
  if opened then
    match d.begin.issue (.setAddr a) with
    | .next e =>
      if e.error.isSome then .next e
      else match e.readWord maxAttempts reg with
        | .next r =>
          match r.value with
          | .ok v => .next (if same a v then r else r.note (some .validation))
          | .error _ => .next r
        | .fault f => .fault f
        | .refused r => .refused r
    | .fault f => .fault f
    | .refused r => .refused r
  else .next (d.begin.note (some .connection))

/-- A register write by a host that knows which registers are EEPROM-backed (`backed`, D31): those get the sequence of R109
and its report of both phases, the others one write. -/
def Driver.writeRegister (d : Driver) (backed : Byte → Bool) (reg : Byte) (data : Data) :
    Host.Outcome WriteReport Fault Refusal :=
  if backed reg then d.eepromWrite reg data
  else match d.begin.performAll (writeWordItems reg data) with
    | .next w => .next { driver := w, erase := none, write := w.error }
    | .fault f => .fault f
    | .refused r => .refused r

end Sys2Proof.Machine
end

