-- ==== Sys2Proof/Safety.lean ====
section
/-! DEFINITION. What a safe block state is, in the terms the claims use: the registers hold only what the rules of spec 10_state.md let
them hold, and a frame that `STATUS.TXLEN` marks valid is one the host may send. A safe run keeps it at every step. -/

namespace Sys2Proof.Machine

/-- The registers as the rules leave them. -/
structure Regs.Safe (p : Params) (r : Regs) : Prop where
  /-- "Values 5, 6 and 7 are never written" (R26). -/
  code_legal : r.code ≤ codeIllegal
  /-- `TXLEN` is 0, 1 or 4 (R25). -/
  txlen_legal : r.txlen = 0 ∨ r.txlen = 1 ∨ r.txlen = 4
  /-- a read's command frame is one register byte with zeros above (R27). -/
  read_frame : r.txlen = 1 → r.txf = packRead (frameByte r.txf 0)
  /-- a write frame standing valid is of a register that is not protected (R105, R133) ... -/
  write_allowed : r.txlen = 4 → p.isProtected (frameByte r.txf 0) = false
  /-- ... and its last byte is the write PEC of its other bytes for some slave address (R27, R102). -/
  write_pec : r.txlen = 4 →
    ∃ a : Addr, frameByte r.txf 3 = wpec a (frameByte r.txf 0) (packData (frameByte r.txf 1) (frameByte r.txf 2))
  /-- a refused write leaves no frame to send (R133). -/
  refused_no_frame : r.code = codeProtected → r.txlen = 0

/-- A machine state is safe when its registers are. -/
def State.Safe (s : State) : Prop := s.regs.Safe s.params

/-- Requests that give the block these commands, in order. -/
def commandsOf (is : List Instr) : List Request := is.map fun i => .command (encode i)

/-- `is` are the host's next requests, before all others it has to issue. -/
def State.issueAll (s : State) (is : List Instr) : State := s.take (commandsOf is ++ s.host.script)

end Sys2Proof.Machine
end

