-- ==== Sys2Proof/Certificates/Slice0/Obligations.lean ====
section
/-! DEFINITION. The statements. Each docstring names the rule of spec/ it formalises, or says that it is derived. -/

open Sys2Proof Sys2Proof.Machine

/-! ## Reset and the ports -/

/-- R29, R8: every piece of state after reset. -/
def Obligations.ResetLeavesTheStatedValues : Prop :=
  State.reset.regs.crc = 0x00 ∧ State.reset.regs.sa = 0x5A ∧ State.reset.regs.code = 0 ∧ State.reset.regs.rdv = false ∧
  State.reset.regs.txlen = 0 ∧ State.reset.regs.txf = 0x00000000 ∧ State.reset.regs.rdata = 0x0000

/-- Derived from R160: the reset input sets every register to its value of R29 and does nothing else (the request itself is taken from the
host's script, log 2); power-on gives the same registers; and after reset the block waits for the host's next command. -/
def Obligations.ResetInputRestoresTheRegisters : Prop :=
  (∀ (s : State) (rest : List Request), s.host.script = .reset :: rest →
    step s = .next
      { regs := { crc := 0x00, sa := 0x5A, code := 0, rdv := false, txlen := 0, txf := 0x00000000, rdata := 0x0000 },
        params := s.params, host := { script := rest, replies := s.host.replies } }) ∧
  State.reset.regs =
    { crc := 0x00, sa := 0x5A, code := 0, rdv := false, txlen := 0, txf := 0x00000000, rdata := 0x0000 } ∧
  step State.reset = .next State.reset

/-- Derived from R41: what the read port answers at each index, and that a read changes no register and no parameter; the host
gets exactly one answer. The request's form is log 2, the answer's log 3. -/
def Obligations.ReadPortAnswersEveryIndexWithoutSideEffect : Prop :=
  (∀ r : Regs, r.read 0x00#8 = r.crc.setWidth 32 ∧ r.read 0x01#8 = r.sa.setWidth 32 ∧
    r.read 0x02#8 = 0#25 ++ r.txlen ++ BitVec.ofBool r.rdv ++ r.code ∧ r.read 0x03#8 = r.txf ∧
    r.read 0x04#8 = r.rdata.setWidth 32 ∧ ∀ idx : Byte, 5 ≤ idx.toNat → r.read idx = 0x00000000) ∧
  (∀ (s : State) (idx : Byte) (rest : List Request), s.host.script = .read idx :: rest →
    step s = .next
      { regs := s.regs, params := s.params,
        host := { script := rest, replies := s.host.replies ++ [(idx, s.regs.read idx)] } })

/-- Derived from R31: the registers are all visible through the read port, so nothing about them is hidden from the host. -/
def Obligations.ReadPortShowsEveryRegister : Prop :=
  ∀ r r' : Regs, (∀ idx : Byte, r.read idx = r'.read idx) → r = r'

/-- Derived from R45 (the script is the model's form of "the order the host issues them", log 2): when the host's next request
is a word that decodes, the step is that command's `exec`, the request having been taken; and `withFetchWord` makes the very
next step run the command in the state as it stands. -/
def Obligations.StepRunsTheDecodedCommand : Prop :=
  (∀ (s : State) (w : Word) (i : Instr) (rest : List Request),
    s.host.script = .command w :: rest → decode w = .ok i →
    step s = exec i { s with host := { s.host with script := rest } }) ∧
  (∀ (s : State) (w : Word) (i : Instr), decode w = .ok i → step (s.withFetchWord 64 w.toNat) = exec i s)

/-- Derived from R45, R41 and the model's script (logs 2, 3): a step takes the host's oldest request and no other, and only a
read adds to what the host has been answered. -/
def Obligations.RequestsAreServedInOrder : Prop :=
  ∀ s t : State, step s = .next t →
    t.host.script = s.host.script.tail ∧
    t.host.replies = s.host.replies ++ (match s.host.script with
      | .read idx :: _ => [(idx, s.regs.read idx)]
      | _ => [])

/-- Derived from R131, R137, R140, R141, R160 and U1 (waiting without a request is log 6, the refused request log 4): every state
has a next state, unless the host's next request is a second, unserialised caller's, and that one is refused. -/
def Obligations.OnlyAnUnserialisedCallerIsRefused : Prop :=
  ∀ s : State,
    ((∀ rest, s.host.script ≠ .unserialised :: rest) → ∃ t, step s = .next t) ∧
    (∀ rest, s.host.script = .unserialised :: rest → step s = .refused .unserialisedHost) ∧
    (s.host.script = [] → step s = .next s)

/-- Derived from R141: no register changes but by a command or by reset. -/
def Obligations.RegistersChangeOnlyByCommandOrReset : Prop :=
  ∀ s t : State, step s = .next t → t.regs ≠ s.regs →
    ∃ rest, (∃ w, s.host.script = .command w :: rest) ∨ s.host.script = .reset :: rest

/-- Derived from R7, R20, R160: the parameters are fixed for the life of a model instance. -/
def Obligations.ParametersNeverChange : Prop :=
  ∀ (k : Nat) (s t : State), Sys2Proof.core.run k s = .next t → t.params = s.params

/-! ## Encoding -/

/-- R60, R61: the fields of a word, and where each format's operands stand in it. -/
def Obligations.OperandsStandWhereTheFormatsPutThem : Prop :=
  (∀ w : Word, w = ((w.extractLsb' 56 8).setWidth 64 <<< 56) ||| ((w.extractLsb' 32 24).setWidth 64 <<< 32) |||
    (w.extractLsb' 0 32).setWidth 64) ∧
  (∀ (w : Word) (i : Instr), decode w = .ok i →
    w.extractLsb' 32 24 = 0 ∧
    match i with
    | .crcLoad b | .crcUpdate b | .crcCompare b | .setAddr b | .frameRead b =>
      w.extractLsb' 8 24 = 0 ∧ b = w.extractLsb' 0 8
    | .frameWrite reg data => w.extractLsb' 24 8 = 0 ∧ reg = w.extractLsb' 16 8 ∧ data = w.extractLsb' 0 16
    | .checkRead reg lo hi pec =>
      reg = w.extractLsb' 24 8 ∧ lo = w.extractLsb' 16 8 ∧ hi = w.extractLsb' 8 8 ∧ pec = w.extractLsb' 0 8) ∧
  (∀ data : Data, dataLo data = data.extractLsb' 0 8 ∧ dataHi data = data.extractLsb' 8 8)

/-- R63, R65: every word is either exactly one of the seven commands, the one whose row of the opcode map covers it, or illegal
and covered by no row. -/
def Obligations.EveryWordIsOneRowsCommandOrIllegal : Prop :=
  opcodeTable.map (fun r => (r.mnemonic, r.pattern, r.mask)) =
    [("CRC_LOAD", 0x0100000000000000, 0xFFFFFFFFFFFFFF00), ("CRC_UPDATE", 0x0200000000000000, 0xFFFFFFFFFFFFFF00),
     ("CRC_COMPARE", 0x0300000000000000, 0xFFFFFFFFFFFFFF00), ("SET_ADDR", 0x1000000000000000, 0xFFFFFFFFFFFFFF00),
     ("FRAME_WRITE", 0x1100000000000000, 0xFFFFFFFFFF000000), ("FRAME_READ", 0x1200000000000000, 0xFFFFFFFFFFFFFF00),
     ("CHECK_READ", 0x1300000000000000, 0xFFFFFFFF00000000)] ∧
  ∀ w : Word,
    (∃ i, decode w = .ok i ∧ (∃ r ∈ opcodeTable, w &&& r.mask = r.pattern) ∧
      ∀ r ∈ opcodeTable, w &&& r.mask = r.pattern → r.mnemonic = i.mnemonic) ∨
    ((∃ e, decode w = .error e) ∧ ∀ r ∈ opcodeTable, w &&& r.mask ≠ r.pattern)

/-- R64: exactly which words are illegal, and that an illegal word writes `STATUS.CODE <- ILLEGAL` and changes no other state. -/
def Obligations.IllegalWordOnlySetsTheCode : Prop :=
  ∀ (w : Word) (s : State),
    let op := w.extractLsb' 56 8
    let legal := op ∈ [0x01#8, 0x02#8, 0x03#8, 0x10#8, 0x11#8, 0x12#8, 0x13#8] ∧ w.extractLsb' 32 24 = 0 ∧
      (op ∈ [0x01#8, 0x02#8, 0x03#8, 0x10#8, 0x12#8] → w.extractLsb' 8 24 = 0) ∧ (op = 0x11#8 → w.extractLsb' 24 8 = 0)
    (¬ legal → commandPort w s = .next { s with regs := { s.regs with code := 4 } }) ∧
    (legal → ∃ i, decode w = .ok i ∧ commandPort w s = exec i s)

/-- Derived from 30_encoding.md section 2 and 95_test_vectors.md: words written out from the spec's encodings. -/
def Obligations.WrittenOutWordsDecode : Prop :=
  decode 0x010000000000005A = .ok (.crcLoad 0x5A) ∧ decode 0x02000000000000B4 = .ok (.crcUpdate 0xB4) ∧
  decode 0x03000000000000F4 = .ok (.crcCompare 0xF4) ∧ decode 0x100000000000005B = .ok (.setAddr 0x5B) ∧
  decode 0x110000000025B7F4 = .ok (.frameWrite 0x25 0xB7F4) ∧ decode 0x120000000000002E = .ok (.frameRead 0x2E) ∧
  decode 0x1300000007D23A30 = .ok (.checkRead 0x07 0xD2 0x3A 0x30)

/-- Derived from R60, R61, R63: decode of encode is the identity on every (well-formed) command, at every operand value. -/
def Obligations.DecodeOfEncodeIsTheCommand : Prop :=
  ∀ i : Instr, i.wellFormed = true ∧ decode (encode i) = .ok i

/-- Derived from R60 to R65: each legal word is the only word of its command, so no bit of it is ignored. -/
def Obligations.EncodeOfDecodeIsTheWord : Prop :=
  ∀ (w : Word) (i : Instr), decode w = .ok i → encode i = w

/-! ## The CRC -/

/-- R80: `crc8` is the eight-shift loop, with its example. -/
def Obligations.Crc8IsTheBitLoop : Prop :=
  (∀ c b : Byte, crc8 c b =
    Nat.repeat (fun d : Byte => if d.getLsbD 7 = true then ((d <<< 1) &&& 0xFF) ^^^ 0x07 else (d <<< 1) &&& 0xFF) 8 (c ^^^ b)) ∧
  crc8 0x00 0xB4 = 0x05

/-- R81: `crcSeq` folds `crc8` over a sequence, first byte first, with its example. -/
def Obligations.CrcSeqFoldsFirstByteFirst : Prop :=
  (∀ c : Byte, crcSeq c [] = c) ∧
  (∀ (c b : Byte) (rest : List Byte), crcSeq c ([b] ++ rest) = crcSeq (crc8 c b) rest) ∧
  crcSeq 0x00 [0x31, 0x32, 0x33, 0x34, 0x35, 0x36, 0x37, 0x38, 0x39] = 0xF4

/-- Derived from 40_crc.md section 1, R82(a) and the table of R83: `crc8` is the table at `c ^ b`. -/
def Obligations.Crc8IsTheTable : Prop :=
  crcTable.length = 256 ∧ ∀ c b : Byte, crcTable[(c ^^^ b).toNat]? = some (crc8 c b)

/-- Derived from 40_crc.md section 1, R82(b) and (c): `crc8` of equal bytes is zero, and `crc8` is linear over GF(2). -/
def Obligations.Crc8IsLinear : Prop :=
  (∀ c : Byte, crc8 c c = 0x00) ∧
  ∀ c1 c2 b1 b2 : Byte, crc8 (c1 ^^^ c2) (b1 ^^^ b2) = crc8 c1 b1 ^^^ crc8 c2 b2

/-- Derived from 40_crc.md section 1, R82(d): for a fixed seed `crc8` is a bijection on bytes, so one corrupted byte anywhere in
a sequence changes its CRC. -/
def Obligations.OneCorruptedByteChangesTheCrc : Prop :=
  (∀ c : Byte, Function.Bijective (crc8 c)) ∧
  ∀ (c b b' : Byte) (before after : List Byte), b ≠ b' → crcSeq c (before ++ b :: after) ≠ crcSeq c (before ++ b' :: after)

/-- Derived from 40_crc.md section 1, R82(e) and (f): a sequence may be cut anywhere, and a message followed by its own PEC
leaves zero. -/
def Obligations.MessageWithItsPecLeavesZero : Prop :=
  (∀ (c : Byte) (s t : List Byte), crcSeq c (s ++ t) = crcSeq (crcSeq c s) t) ∧
  ∀ s : List Byte, crcSeq 0x00 (s ++ [crcSeq 0x00 s]) = 0x00

/-- The polynomial over GF(2) of a byte: bit 7 is the coefficient of the highest power (R46). -/
noncomputable def Sys2Proof.bytePoly (b : Byte) : Polynomial (ZMod 2) :=
  ∑ k ∈ Finset.range 8, if b.getLsbD k then Polynomial.X ^ k else 0

/-- M(x) of R46: "the message read as a bit string first byte first, each byte MSB first". -/
noncomputable def Sys2Proof.messagePoly : List Byte → Polynomial (ZMod 2)
  | [] => 0
  | b :: rest => bytePoly b * Polynomial.X ^ (8 * rest.length) + messagePoly rest

/-- Derived from 20_memory.md section 2 (R46's inference): the CRC of a message from initial value 0 is the remainder of
M(x)·x^8 divided by x^8+x^2+x+1. -/
def Obligations.PecIsThePolynomialRemainder : Prop :=
  ∀ s : List Byte, bytePoly (crcSeq 0x00 s) =
    (messagePoly s * Polynomial.X ^ 8) %ₘ (Polynomial.X ^ 8 + Polynomial.X ^ 2 + Polynomial.X + 1)

/-! ## The CRC commands -/

/-- R85: CRC_LOAD, its word, its whole effect, in every state; its opcode in any other word is illegal. -/
def Obligations.CrcLoadSeedsTheAccumulator : Prop :=
  ∀ (imm8 : Byte) (s : State),
    decode (0x01#8 ++ 0#48 ++ imm8) = .ok (.crcLoad imm8) ∧
    exec (.crcLoad imm8) s = .next { s with regs := { s.regs with crc := imm8, code := 0 } } ∧
    (∀ w : Word, w.extractLsb' 56 8 = 0x01#8 → (∀ b : Byte, w ≠ 0x01#8 ++ 0#48 ++ b) →
      commandPort w s = .next { s with regs := { s.regs with code := 4 } })

/-- R86: CRC_UPDATE, its word, its whole effect, in every state; its opcode in any other word is illegal. -/
def Obligations.CrcUpdateFeedsOneByte : Prop :=
  ∀ (imm8 : Byte) (s : State),
    decode (0x02#8 ++ 0#48 ++ imm8) = .ok (.crcUpdate imm8) ∧
    exec (.crcUpdate imm8) s = .next { s with regs := { s.regs with crc := crc8 s.regs.crc imm8, code := 0 } } ∧
    (∀ w : Word, w.extractLsb' 56 8 = 0x02#8 → (∀ b : Byte, w ≠ 0x02#8 ++ 0#48 ++ b) →
      commandPort w s = .next { s with regs := { s.regs with code := 4 } })

/-- R87: CRC_COMPARE, its word, OK on equality and CHECKSUM on any difference, nothing else written; its opcode in any other word
is illegal. -/
def Obligations.CrcCompareReportsEquality : Prop :=
  ∀ (imm8 : Byte) (s : State),
    decode (0x03#8 ++ 0#48 ++ imm8) = .ok (.crcCompare imm8) ∧
    (s.regs.crc = imm8 → exec (.crcCompare imm8) s = .next { s with regs := { s.regs with code := 0 } }) ∧
    (s.regs.crc ≠ imm8 → exec (.crcCompare imm8) s = .next { s with regs := { s.regs with code := 1 } }) ∧
    (∀ w : Word, w.extractLsb' 56 8 = 0x03#8 → (∀ b : Byte, w ≠ 0x03#8 ++ 0#48 ++ b) →
      commandPort w s = .next { s with regs := { s.regs with code := 4 } })

/-- Derived from 40_crc.md section 2 (R88's inference): issued to the block one step each, `CRC_LOAD 0x00`, the bytes of any
sequence, then `CRC_COMPARE p` end with OK exactly when `p` is the sequence's CRC, and with CHECKSUM otherwise; what the
host had still to issue, whose form is log 2, is untouched. -/
def Obligations.GeneratedPecPassesTheChecker : Prop :=
  ∀ (s : State) (bytes : List Byte) (p : Byte),
    ∃ t, Sys2Proof.core.run (bytes.length + 2)
        (s.issueAll (.crcLoad 0x00 :: bytes.map .crcUpdate ++ [.crcCompare p])) = .next t ∧
      t.host = s.host ∧ t.regs.crc = crcSeq 0x00 bytes ∧
      t.regs.code = (if p = crcSeq 0x00 bytes then 0 else 1) ∧
      t.regs.sa = s.regs.sa ∧ t.regs.txf = s.regs.txf ∧ t.regs.rdata = s.regs.rdata ∧
      t.regs.txlen = s.regs.txlen ∧ t.regs.rdv = s.regs.rdv

/-! ## The framer -/

/-- Derived from 20_memory.md section 1 (R43): the address bytes are twice the address, plus one for a read. -/
def Obligations.AddressBytesCarryTheReadBit : Prop :=
  (∀ a : Addr, (wAddr a).toNat = 2 * a.toNat ∧ (rAddr a).toNat = 2 * a.toNat + 1) ∧ wAddr 0x5A = 0xB4 ∧ rAddr 0x5A = 0xB5

/-- R102, R103: the bytes each PEC covers, in their order, from the initial value 0. -/
def Obligations.PecsCoverTheirBytes : Prop :=
  (∀ (sa : Addr) (reg : Byte) (data : Data),
    wpec sa reg data = crcSeq 0x00 [wAddr sa, reg, data.extractLsb' 0 8, data.extractLsb' 8 8]) ∧
  (∀ (sa : Addr) (reg lo hi : Byte), rpec sa reg lo hi = crcSeq 0x00 [wAddr sa, reg, rAddr sa, lo, hi])

/-- R100: a framer command's PEC does not depend on what `CRC` held, and is left in `CRC`. -/
def Obligations.FramerPecIgnoresTheOldCrc : Prop :=
  ∀ (s : State) (c reg lo hi pec : Byte) (data : Data),
    exec (.checkRead reg lo hi pec) (s.setCrc c) = exec (.checkRead reg lo hi pec) s ∧
    (∀ t, exec (.checkRead reg lo hi pec) s = .next t → t.regs.crc = rpec s.regs.sa reg lo hi) ∧
    (s.params.isProtected reg = false →
      exec (.frameWrite reg data) (s.setCrc c) = exec (.frameWrite reg data) s ∧
      ∀ t, exec (.frameWrite reg data) s = .next t → t.regs.crc = wpec s.regs.sa reg data)

/-- R104: SET_ADDR, its word; RANGE with nothing else written above 0x7F or for a reserved address; else the address set;
its opcode in any other word is illegal. -/
def Obligations.SetAddrTakesOrRefusesTheAddress : Prop :=
  ∀ (imm8 : Byte) (s : State),
    decode (0x10#8 ++ 0#48 ++ imm8) = .ok (.setAddr imm8) ∧
    (imm8.toNat ≤ 0x7F → s.params.isReserved (imm8.extractLsb' 0 7) = false →
      exec (.setAddr imm8) s = .next { s with regs := { s.regs with sa := imm8.extractLsb' 0 7, code := 0 } }) ∧
    (0x7F < imm8.toNat ∨ s.params.isReserved (imm8.extractLsb' 0 7) = true →
      exec (.setAddr imm8) s = .next { s with regs := { s.regs with code := 3 } }) ∧
    (∀ w : Word, w.extractLsb' 56 8 = 0x10#8 → (∀ b : Byte, w ≠ 0x10#8 ++ 0#48 ++ b) →
      commandPort w s = .next { s with regs := { s.regs with code := 4 } })

/-- R105: FRAME_WRITE, its word; the frame and its PEC; or PROTECTED with `TXLEN` 0 and nothing else written; its
opcode in any other word is illegal. -/
def Obligations.FrameWriteBuildsOrRefusesTheFrame : Prop :=
  ∀ (reg : Byte) (data : Data) (s : State),
    decode (0x11#8 ++ 0#32 ++ reg ++ data) = .ok (.frameWrite reg data) ∧
    (s.params.isProtected reg = false →
      exec (.frameWrite reg data) s = .next { s with regs := { s.regs with
        crc := wpec s.regs.sa reg data,
        txf := wpec s.regs.sa reg data ++ data.extractLsb' 8 8 ++ data.extractLsb' 0 8 ++ reg,
        txlen := 4, code := 0 } }) ∧
    (s.params.isProtected reg = true →
      exec (.frameWrite reg data) s = .next { s with regs := { s.regs with txlen := 0, code := 2 } }) ∧
    (∀ w : Word, w.extractLsb' 56 8 = 0x11#8 → (∀ (r : Byte) (d : Data), w ≠ 0x11#8 ++ 0#32 ++ r ++ d) →
      commandPort w s = .next { s with regs := { s.regs with code := 4 } })

/-- R106: FRAME_READ, its word, its whole effect, for every register byte, protected or not; its opcode in any other word is
illegal. -/
def Obligations.FrameReadBuildsTheCommandFrame : Prop :=
  ∀ (reg : Byte) (s : State),
    decode (0x12#8 ++ 0#48 ++ reg) = .ok (.frameRead reg) ∧
    exec (.frameRead reg) s = .next { s with regs := { s.regs with txf := reg.setWidth 32, txlen := 1, code := 0 } } ∧
    (∀ w : Word, w.extractLsb' 56 8 = 0x12#8 → (∀ b : Byte, w ≠ 0x12#8 ++ 0#48 ++ b) →
      commandPort w s = .next { s with regs := { s.regs with code := 4 } })

/-- R107: CHECK_READ, its word; a match accepts the data; a mismatch clears `RDV` and keeps `RDATA`; the PEC is left in `CRC`;
its opcode in any other word is illegal. -/
def Obligations.CheckReadAcceptsOnlyTheMatchingPec : Prop :=
  ∀ (reg lo hi pec : Byte) (s : State),
    decode (0x13#8 ++ 0#24 ++ reg ++ lo ++ hi ++ pec) = .ok (.checkRead reg lo hi pec) ∧
    (rpec s.regs.sa reg lo hi = pec →
      exec (.checkRead reg lo hi pec) s = .next { s with regs := { s.regs with
        crc := rpec s.regs.sa reg lo hi, rdata := hi ++ lo, rdv := true, code := 0 } }) ∧
    (rpec s.regs.sa reg lo hi ≠ pec →
      exec (.checkRead reg lo hi pec) s = .next { s with regs := { s.regs with
        crc := rpec s.regs.sa reg lo hi, rdv := false, code := 1 } }) ∧
    (∀ w : Word, w.extractLsb' 56 8 = 0x13#8 → (∀ r l h p : Byte, w ≠ 0x13#8 ++ 0#24 ++ r ++ l ++ h ++ p) →
      commandPort w s = .next { s with regs := { s.regs with code := 4 } })

/-- Derived from 41_framer.md section 2 (R107's corner case, by R82(d)): a response whose PEC was right and of which one byte, of
data or of the register sent, is then changed is refused. -/
def Obligations.CorruptedResponseIsRefused : Prop :=
  ∀ (s t : State) (reg lo hi reg' lo' hi' : Byte),
    ((reg' ≠ reg ∧ lo' = lo ∧ hi' = hi) ∨ (reg' = reg ∧ lo' ≠ lo ∧ hi' = hi) ∨ (reg' = reg ∧ lo' = lo ∧ hi' ≠ hi)) →
    exec (.checkRead reg' lo' hi' (rpec s.regs.sa reg lo hi)) s = .next t →
    t.regs.code = 1 ∧ t.regs.rdv = false ∧ t.regs.rdata = s.regs.rdata

/-- Derived from 41_framer.md section 3 (R108's inferences): (a) the PEC of a write frame passes the checker over the same four
bytes; (b) a response with its PEC gives its data back; (c) a write PEC is not in general a read PEC. -/
def Obligations.FramesRoundTrip : Prop :=
  (∀ (s t : State) (reg : Byte) (data : Data), s.params.isProtected reg = false →
    exec (.frameWrite reg data) s = .next t →
    ∃ u, Sys2Proof.core.run 6 (t.issueAll [.crcLoad 0x00, .crcUpdate (wAddr s.regs.sa), .crcUpdate reg,
        .crcUpdate (data.extractLsb' 0 8), .crcUpdate (data.extractLsb' 8 8),
        .crcCompare (t.regs.txf.extractLsb' 24 8)]) = .next u ∧ u.regs.code = 0) ∧
  (∀ (s : State) (reg lo hi : Byte), ∃ t, exec (.checkRead reg lo hi (rpec s.regs.sa reg lo hi)) s = .next t ∧
    t.regs.code = 0 ∧ t.regs.rdata = hi ++ lo) ∧
  (wpec 0x5A 0x25 0xB7F4 = 0x0F ∧ rpec 0x5A 0x25 0xF4 0xB7 = 0xA8)

/-! ## The registers: who writes each -/

/-- R23: `CRC` is read at index 0x00, and what each command, and an illegal word, leaves in it. -/
def Obligations.CrcHasTheStatedWriters : Prop :=
  (∀ r : Regs, r.read 0x00#8 = r.crc.setWidth 32) ∧
  (∀ (i : Instr) (s t : State), exec i s = .next t → t.regs.crc = match i with
    | .crcLoad imm8 => imm8
    | .crcUpdate imm8 => crc8 s.regs.crc imm8
    | .crcCompare _ => s.regs.crc
    | .setAddr _ => s.regs.crc
    | .frameWrite reg data => if s.params.isProtected reg then s.regs.crc else wpec s.regs.sa reg data
    | .frameRead _ => s.regs.crc
    | .checkRead reg lo hi _ => rpec s.regs.sa reg lo hi) ∧
  (∀ (w : Word) (e : Illegal) (s t : State), decode w = .error e → commandPort w s = .next t → t.regs.crc = s.regs.crc) ∧
  State.reset.regs.crc = 0x00

/-- R24: `SA` is read at index 0x01 in bits 6:0; only a successful SET_ADDR writes it; the framer takes its address bytes from
it. -/
def Obligations.SlaveAddressIsWrittenOnlyBySetAddr : Prop :=
  (∀ r : Regs, (r.read 0x01#8).extractLsb' 0 7 = r.sa ∧ (r.read 0x01#8).extractLsb' 7 25 = 0) ∧
  (∀ (w : Word) (s t : State), commandPort w s = .next t → t.regs.sa ≠ s.regs.sa →
    ∃ imm8, decode w = .ok (.setAddr imm8) ∧ t.regs.code = 0 ∧ t.regs.sa = imm8.extractLsb' 0 7) ∧
  (∀ (a : Addr) (s : State), s.params.isReserved a = false →
    ∃ t, exec (.setAddr (a.setWidth 8)) s = .next t ∧ t.regs.sa = a) ∧
  (∀ (s t : State) (reg : Byte) (data : Data), s.params.isProtected reg = false → exec (.frameWrite reg data) s = .next t →
    t.regs.crc = crcSeq 0x00 [wAddr s.regs.sa, reg, data.extractLsb' 0 8, data.extractLsb' 8 8]) ∧
  (∀ (s t : State) (reg lo hi pec : Byte), exec (.checkRead reg lo hi pec) s = .next t →
    t.regs.crc = crcSeq 0x00 [wAddr s.regs.sa, reg, rAddr s.regs.sa, lo, hi]) ∧
  State.reset.regs.sa = 0x5A

/-- R25: the layout of `STATUS` at index 0x02, who writes each field, and its reset value. -/
def Obligations.StatusFieldsAndTheirWriters : Prop :=
  (∀ r : Regs, (r.read 0x02#8).extractLsb' 0 3 = r.code ∧ (r.read 0x02#8).getLsbD 3 = r.rdv ∧
    (r.read 0x02#8).extractLsb' 4 3 = r.txlen ∧ (r.read 0x02#8).extractLsb' 7 25 = 0) ∧
  (∀ (i : Instr) (s t : State), exec i s = .next t →
    (t.regs.txlen = match i with
      | .crcLoad _ => s.regs.txlen
      | .crcUpdate _ => s.regs.txlen
      | .crcCompare _ => s.regs.txlen
      | .setAddr _ => s.regs.txlen
      | .frameWrite reg _ => if s.params.isProtected reg then 0 else 4
      | .frameRead _ => 1
      | .checkRead _ _ _ _ => s.regs.txlen) ∧
    (t.regs.rdv = match i with
      | .crcLoad _ => s.regs.rdv
      | .crcUpdate _ => s.regs.rdv
      | .crcCompare _ => s.regs.rdv
      | .setAddr _ => s.regs.rdv
      | .frameWrite _ _ => s.regs.rdv
      | .frameRead _ => s.regs.rdv
      | .checkRead reg lo hi pec => decide (rpec s.regs.sa reg lo hi = pec))) ∧
  (∀ (w : Word) (s t : State), commandPort w s = .next t →
    (∀ c, commandPort w (s.setCode c) = .next t) ∧
    ((∃ e, decode w = .error e) → t.regs.code = 4 ∧ t.regs.txlen = s.regs.txlen ∧ t.regs.rdv = s.regs.rdv)) ∧
  State.reset.regs.read 0x02#8 = 0x00000000

/-- R26: the cause of each result code, over every command word; 5, 6 and 7 are never written. -/
def Obligations.EachResultCodeHasItsCause : Prop :=
  ∀ (w : Word) (s t : State), commandPort w s = .next t →
    (t.regs.code = 1 ↔ (∃ imm8, decode w = .ok (.crcCompare imm8) ∧ s.regs.crc ≠ imm8) ∨
      (∃ reg lo hi pec, decode w = .ok (.checkRead reg lo hi pec) ∧ rpec s.regs.sa reg lo hi ≠ pec)) ∧
    (t.regs.code = 2 ↔ ∃ reg data, decode w = .ok (.frameWrite reg data) ∧ s.params.isProtected reg = true) ∧
    (t.regs.code = 3 ↔ ∃ imm8, decode w = .ok (.setAddr imm8) ∧
      (0x7F < imm8.toNat ∨ s.params.isReserved (imm8.extractLsb' 0 7) = true)) ∧
    (t.regs.code = 4 ↔ ¬ (w.extractLsb' 32 24 = 0 ∧
      (w.extractLsb' 56 8 ∈ [0x01#8, 0x02#8, 0x03#8, 0x10#8, 0x12#8] ∧ w.extractLsb' 8 24 = 0 ∨
        w.extractLsb' 56 8 = 0x11#8 ∧ w.extractLsb' 24 8 = 0 ∨ w.extractLsb' 56 8 = 0x13#8))) ∧
    t.regs.code.toNat ≤ 4

/-- R130: every command ends with a code from OK to ILLEGAL, and one that fails writes `STATUS.CODE` and only the other fields its rule lists for that failure. -/
def Obligations.FailedCommandWritesOnlyWhatItsRuleLists : Prop :=
  (∀ (w : Word) (s t : State), commandPort w s = .next t → t.regs.code.toNat ≤ 4) ∧
  ∀ (w : Word) (s t : State), commandPort w s = .next t → t.regs.code ≠ 0 →
    t.params = s.params ∧ t.host = s.host ∧
    match decode w with
    | .error _ => t.regs = { s.regs with code := 4 }
    | .ok (.crcLoad _) => False
    | .ok (.crcUpdate _) => False
    | .ok (.crcCompare _) => t.regs = { s.regs with code := 1 }
    | .ok (.setAddr _) => t.regs = { s.regs with code := 3 }
    | .ok (.frameWrite _ _) => t.regs = { s.regs with code := 2, txlen := 0 }
    | .ok (.frameRead _) => False
    | .ok (.checkRead reg lo hi _) => t.regs = { s.regs with code := 1, crc := rpec s.regs.sa reg lo hi, rdv := false }

/-- Derived from R131 and R30: no command reads `STATUS`, `TXF` or `RDATA`: of two states alike in `CRC`, `SA` and the parameters, a word leaves
states alike in them and in `STATUS.CODE`, whatever code, flags, frame or data stood before; and each of the other fields it
leaves alike in both, or as it was in both. -/
def Obligations.NoCommandReadsStatusOrFrameOrData : Prop :=
  ∀ (w : Word) (s s' t t' : State), s.regs.crc = s'.regs.crc → s.regs.sa = s'.regs.sa → s.params = s'.params →
    commandPort w s = .next t → commandPort w s' = .next t' →
    t.regs.crc = t'.regs.crc ∧ t.regs.sa = t'.regs.sa ∧ t.params = t'.params ∧ t.regs.code = t'.regs.code ∧
    (t.regs.txf = t'.regs.txf ∨ t.regs.txf = s.regs.txf ∧ t'.regs.txf = s'.regs.txf) ∧
    (t.regs.txlen = t'.regs.txlen ∨ t.regs.txlen = s.regs.txlen ∧ t'.regs.txlen = s'.regs.txlen) ∧
    (t.regs.rdv = t'.regs.rdv ∨ t.regs.rdv = s.regs.rdv ∧ t'.regs.rdv = s'.regs.rdv) ∧
    (t.regs.rdata = t'.regs.rdata ∨ t.regs.rdata = s.regs.rdata ∧ t'.regs.rdata = s'.regs.rdata)

/-- R27: `TXF` by bytes, read at index 0x03; what a write, a read and a refused write leave as the frame; who writes it. -/
def Obligations.TransmitFrameHoldsTheBytesInOrder : Prop :=
  (∀ r : Regs, r.read 0x03#8 = r.txf ∧ (r.txlen = 0 → r.frame = []) ∧
    (r.txlen = 1 → r.frame = [r.txf.extractLsb' 0 8]) ∧
    (r.txlen = 4 → r.frame =
      [r.txf.extractLsb' 0 8, r.txf.extractLsb' 8 8, r.txf.extractLsb' 16 8, r.txf.extractLsb' 24 8])) ∧
  (∀ (s : State) (reg : Byte) (data : Data), s.params.isProtected reg = false →
    ∃ t, exec (.frameWrite reg data) s = .next t ∧ t.regs.txlen = 4 ∧
      t.regs.frame = [reg, data.extractLsb' 0 8, data.extractLsb' 8 8, wpec s.regs.sa reg data] ∧
      t.regs.txf = wpec s.regs.sa reg data ++ data.extractLsb' 8 8 ++ data.extractLsb' 0 8 ++ reg) ∧
  (∀ (s : State) (reg : Byte), ∃ t, exec (.frameRead reg) s = .next t ∧ t.regs.frame = [reg] ∧
    t.regs.txf = reg.setWidth 32) ∧
  (∀ (s : State) (reg : Byte) (data : Data), s.params.isProtected reg = true →
    ∃ t, exec (.frameWrite reg data) s = .next t ∧ t.regs.txf = s.regs.txf ∧ t.regs.txlen = 0 ∧ t.regs.frame = []) ∧
  (∀ (w : Word) (s t : State), commandPort w s = .next t → t.regs.txf ≠ s.regs.txf →
    (∃ reg data, decode w = .ok (.frameWrite reg data) ∧ t.regs.code = 0) ∨ ∃ reg, decode w = .ok (.frameRead reg)) ∧
  State.reset.regs.txf = 0x00000000

/-- R28: `RDATA` is read at index 0x04; only a CHECK_READ whose PEC matched writes it, with the first data byte low; a mismatch
keeps it and clears `RDV`. -/
def Obligations.ReadDataIsWrittenOnlyByAMatchingCheck : Prop :=
  (∀ r : Regs, (r.read 0x04#8).extractLsb' 0 16 = r.rdata ∧ (r.read 0x04#8).extractLsb' 16 16 = 0) ∧
  (∀ (i : Instr) (s t : State), exec i s = .next t → t.regs.rdata = match i with
    | .crcLoad _ => s.regs.rdata
    | .crcUpdate _ => s.regs.rdata
    | .crcCompare _ => s.regs.rdata
    | .setAddr _ => s.regs.rdata
    | .frameWrite _ _ => s.regs.rdata
    | .frameRead _ => s.regs.rdata
    | .checkRead reg lo hi pec => if rpec s.regs.sa reg lo hi = pec then hi ++ lo else s.regs.rdata) ∧
  (∀ (w : Word) (s t : State), commandPort w s = .next t →
    (∃ e, decode w = .error e) → t.regs.rdata = s.regs.rdata) ∧
  (∀ (s t : State) (reg lo hi pec : Byte), exec (.checkRead reg lo hi pec) s = .next t →
    rpec s.regs.sa reg lo hi ≠ pec → t.regs.rdv = false) ∧
  State.reset.regs.rdata = 0x0000

/-! ## Safety -/

/-- Derived from R29: the registers are safe after reset, whatever the parameters. -/
def Obligations.ResetStateIsSafe : Prop := State.reset.Safe

/-- Derived from R25, R26, R27, R105, R133: every step from a safe state, reached or not, leads to a safe state. So a frame that
`STATUS.TXLEN` marks valid is never of a protected register, always bears its PEC, and no code above ILLEGAL is ever held. -/
def Obligations.EveryStepKeepsTheBlockSafe : Prop :=
  ∀ s t : State, s.Safe → step s = .next t → t.Safe

/-! ## The assembler and the host's sequences -/

/-- Derived from R66: a written command assembles exactly to the command it writes; one whose operand does not fit its field, or
whose operands are too few or too many, does not assemble. -/
def Obligations.AssemblerNeverTruncates : Prop :=
  (∀ (c : Written) (i : Instr), assemble c = .ok i ↔ c = i.written) ∧
  ∀ c : Written, c.wellFormed = true ↔ ∃ i, assemble c = .ok i

/-- Derived from R67 (the form of an expansion is log 8): the expansion of every pseudo-command. -/
def Obligations.PseudoCommandsExpandAsStated : Prop :=
  (∀ bytes, (Pseudo.crcBytes bytes).expand = bytes.map fun b => .command (.crcUpdate b)) ∧
  (∀ bytes, (Pseudo.crcOf bytes).expand = .command (.crcLoad 0x00) :: (Pseudo.crcBytes bytes).expand) ∧
  (∀ reg data, (Pseudo.writeWord reg data).expand = [.command (.frameWrite reg data), .host .sendFrameIfOk]) ∧
  (∀ reg, (Pseudo.readWord reg).expand = [.command (.frameRead reg), .host .readTransaction, .checkReceived reg]) ∧
  (∀ reg data, (Pseudo.eepromWrite reg data).expand =
    (Pseudo.writeWord reg 0x0000).expand ++ [.host (.wait 5)] ++ (Pseudo.writeWord reg data).expand ++ [.host (.wait 5)])

/-- Derived from R109, R162 (the driver's form is log 8): for a register that may be written, whatever the transport does, the
erase frame is sent, 5 ms are waited, the write frame is sent, 5 ms are waited, in that order, the write tried even if the
erase failed, and each phase reports its own failure. -/
def Obligations.EepromWriteErasesThenWrites : Prop :=
  ∀ (d : Driver) (reg : Byte) (data : Data), d.block.params.isProtected reg = false →
    let ok1 := d.acks.headD false
    let ok2 := d.acks.tail.headD false
    let sa := d.block.regs.sa
    ∃ r, d.eepromWrite reg data = .next r ∧
      r.driver.log = d.log ++
        [.sent [reg, 0x00, 0x00, wpec sa reg 0x0000] ok1, .waited 5,
         .sent [reg, data.extractLsb' 0 8, data.extractLsb' 8 8, wpec sa reg data] ok2, .waited 5] ∧
      r.erase = (if ok1 then none else some .transport) ∧ r.write = (if ok2 then none else some .transport)

/-- Derived from R109, R133 (the driver's form is log 8): a protected register is refused in both phases and nothing is sent. -/
def Obligations.EepromWriteOfProtectedRegisterSendsNothing : Prop :=
  ∀ (d : Driver) (reg : Byte) (data : Data), d.block.params.isProtected reg = true →
    ∃ r, d.eepromWrite reg data = .next r ∧ r.driver.log = d.log ++ [.waited 5, .waited 5] ∧ r.driver.acks = d.acks ∧
      r.erase = some .protectedRegister ∧ r.write = some .protectedRegister

/-- Derived from R105, R109, R133, R141 (the driver's form is log 8): whatever a host does between its commands, from a safe block
no write frame of a protected register is ever given to the transport, by a send or by a read, and the block stays safe. -/
def Obligations.NoProtectedWriteReachesTheTransport : Prop :=
  ∀ (d e : Driver) (items : List Item), d.block.Safe → d.performAll items = .next e →
    e.block.Safe ∧ ∃ events, e.log = d.log ++ events ∧
      ∀ frame : List Byte, (∃ ok, .sent frame ok ∈ events) ∨ (∃ response, .received frame response ∈ events) →
        frame.length = 4 →
        ∃ reg rest, frame = reg :: rest ∧ d.block.params.isProtected reg = false

/-- Derived from R163 (the driver's form is log 8): a read is repeated after transport errors only, up to the cap; the first
response is checked and, right or wrong, ends the read; after as many transport errors as the cap no further response is
read, whatever it would be. -/
def Obligations.ReadIsRetriedOnlyOnTransportError : Prop :=
  (∀ (d : Driver) (cap k : Nat) (reg lo hi pec : Byte) (rest : List (Option (Byte × Byte × Byte))), k < cap →
    d.responses = List.replicate k none ++ some (lo, hi, pec) :: rest →
    ∃ t, d.readWord cap reg = .next t ∧ t.responses = rest ∧
      t.value = if rpec d.block.regs.sa reg lo hi = pec then .ok (hi ++ lo) else .error .checksum) ∧
  (∀ (d : Driver) (cap : Nat) (reg : Byte) (rest : List (Option (Byte × Byte × Byte))),
    d.responses = List.replicate cap none ++ rest →
    ∃ t, d.readWord cap reg = .next t ∧ t.responses = rest ∧ t.value = .error .transport)

/-- Derived from R110, R107 (the driver's form is log 8): a read that gives a value got it in a response with the right PEC for
the register sent and the address configured, and `STATUS` says so. -/
def Obligations.ReadGivesOnlyAValidatedValue : Prop :=
  ∀ (d t : Driver) (cap : Nat) (reg : Byte) (v : Data), d.readWord cap reg = .next t → t.value = .ok v →
    ∃ lo hi, v = hi ++ lo ∧
      t.log.getLast? = some (.received [reg] (some (lo, hi, rpec d.block.regs.sa reg lo hi))) ∧
      t.block.regs.code = 0 ∧ t.block.regs.rdv = true ∧ t.block.regs.rdata = v

/-- Derived from R161, R136 (the driver's form is log 8): the start protocol ends without an error only when the bus opened, the
address was accepted, and the last thing on the bus was a response with the right PEC for the register sent and the address
opened, whose data is the value read, stands in `RDATA` as valid, and is accepted by the host's comparison; a bus that does not open is reported
and the block left alone; a validated value that differs is a ValidationError. -/
def Obligations.StartSucceedsOnlyOnTheStoredAddress : Prop :=
  ∀ (d : Driver) (a : Byte) (cap : Nat) (reg : Byte) (same : Byte → Data → Bool),
    (∃ t, d.start false a cap reg same = .next t ∧ t.error = some .connection ∧ t.block = d.block) ∧
    (∀ t, d.start true a cap reg same = .next t → t.error = none →
      refusesAddr d.block.params a = false ∧ t.block.regs.sa = a.extractLsb' 0 7 ∧
      ∃ lo hi, t.value = .ok (hi ++ lo) ∧ same a (hi ++ lo) = true ∧
        t.log.getLast? = some (.received [reg] (some (lo, hi, rpec (a.extractLsb' 0 7) reg lo hi))) ∧
        t.block.regs.code = 0 ∧ t.block.regs.rdv = true ∧ t.block.regs.rdata = hi ++ lo) ∧
    (∀ (lo hi : Byte) (rest : List (Option (Byte × Byte × Byte))), 0 < cap → refusesAddr d.block.params a = false →
      d.responses = some (lo, hi, rpec (a.extractLsb' 0 7) reg lo hi) :: rest → same a (hi ++ lo) = false →
      ∃ t, d.start true a cap reg same = .next t ∧ t.error = some .validation)

/-- Derived from R109, R133 (the driver's form and the set of backed registers are log 8): a host's write of a register that is
EEPROM-backed is the erase and the write, and reports the failure of each phase, both if both fail; a write of another register
is one frame, with no erase to fail; a protected register is refused in every phase and nothing is sent. -/
def Obligations.RegisterWriteReportsEachPhase : Prop :=
  ∀ (d : Driver) (backed : Byte → Bool) (reg : Byte) (data : Data),
    let ok1 := d.acks.headD false
    let ok2 := d.acks.tail.headD false
    let sa := d.block.regs.sa
    let writeFrame := [reg, data.extractLsb' 0 8, data.extractLsb' 8 8, wpec sa reg data]
    (d.block.params.isProtected reg = false → backed reg = true →
      ∃ r, d.writeRegister backed reg data = .next r ∧
        r.driver.log = d.log ++
          [.sent [reg, 0x00, 0x00, wpec sa reg 0x0000] ok1, .waited 5, .sent writeFrame ok2, .waited 5] ∧
        r.erase = (if ok1 then none else some .transport) ∧ r.write = (if ok2 then none else some .transport)) ∧
    (d.block.params.isProtected reg = false → backed reg = false →
      ∃ r, d.writeRegister backed reg data = .next r ∧ r.driver.log = d.log ++ [.sent writeFrame ok1] ∧
        r.erase = none ∧ r.write = (if ok1 then none else some .transport)) ∧
    (d.block.params.isProtected reg = true →
      ∃ r, d.writeRegister backed reg data = .next r ∧ r.driver.acks = d.acks ∧
        r.driver.log = d.log ++ (if backed reg then [.waited 5, .waited 5] else []) ∧
        r.erase = (if backed reg then some .protectedRegister else none) ∧ r.write = some .protectedRegister)
end

