-- ==== Sys2Proof/Laws/Encoding.lean ====
section
/-! SUPPORT. The fields of a command word and of an encoded command (spec 30_encoding.md R60, R61). -/

namespace Sys2Proof

/-- The top field of three is read back. -/
theorem opField_append (op : Byte) (rsv : BitVec 24) (arg : BitVec 32) : opField (op ++ rsv ++ arg) = op := by
  apply BitVec.eq_of_getLsbD_eq
  intro i hi
  have h1 : ¬ 56 + i < 32 := by omega
  have h2 : ¬ 56 + i - 32 < 24 := by omega
  have h3 : 56 + i - 32 - 24 = i := by omega
  simp only [opField, BitVec.getLsbD_extractLsb', BitVec.getLsbD_append, h1, h2, h3, hi, if_false, decide_true,
    Bool.true_and]

/-- The middle field of three is read back. -/
theorem rsvField_append (op : Byte) (rsv : BitVec 24) (arg : BitVec 32) : rsvField (op ++ rsv ++ arg) = rsv := by
  apply BitVec.eq_of_getLsbD_eq
  intro i hi
  have h1 : ¬ 32 + i < 32 := by omega
  have h3 : 32 + i - 32 = i := by omega
  simp only [rsvField, BitVec.getLsbD_extractLsb', BitVec.getLsbD_append, h1, h3, hi, if_false, if_true, decide_true,
    Bool.true_and]

/-- The bottom field of three is read back. -/
theorem argField_append (op : Byte) (rsv : BitVec 24) (arg : BitVec 32) : argField (op ++ rsv ++ arg) = arg := by
  apply BitVec.eq_of_getLsbD_eq
  intro i hi
  simp only [argField, BitVec.getLsbD_extractLsb', BitVec.getLsbD_append, Nat.zero_add, hi, if_true, decide_true,
    Bool.true_and]

@[simp] theorem opField_encode (i : Instr) : opField (encode i) = i.opcode := opField_append _ _ _
@[simp] theorem rsvField_encode (i : Instr) : rsvField (encode i) = 0#24 := rsvField_append _ _ _
@[simp] theorem argField_encode (i : Instr) : argField (encode i) = i.argument := argField_append _ _ _

/-- A word is its three fields side by side. -/
theorem fields_append (w : Word) : opField w ++ rsvField w ++ argField w = w := by
  apply BitVec.eq_of_getLsbD_eq
  intro i hi
  simp only [opField, rsvField, argField, BitVec.getLsbD_extractLsb', BitVec.getLsbD_append, Nat.zero_add]
  by_cases h : i < 32
  · simp only [h, if_true, decide_true, Bool.true_and]
  · by_cases h' : i - 32 < 24
    · have : 32 + (i - 32) = i := by omega
      simp only [h, h', this, if_true, if_false, decide_true, Bool.true_and]
    · have h1 : i - 32 - 24 < 8 := by omega
      have h2 : 56 + (i - 32 - 24) = i := by omega
      simp only [h, h', h1, h2, if_false, decide_true, Bool.true_and]

/-- Two words with the same fields are the same word. -/
theorem word_ext {v w : Word} (ho : opField v = opField w) (hr : rsvField v = rsvField w) (ha : argField v = argField w) :
    v = w := by
  rw [← fields_append v, ← fields_append w, ho, hr, ha]

/-- The argument of format B is its reserved bits above its byte. -/
theorem formatB_append (arg : BitVec 32) : arg.extractLsb' 8 24 ++ arg.extractLsb' 0 8 = arg := by
  apply BitVec.eq_of_getLsbD_eq
  intro i hi
  simp only [BitVec.getLsbD_extractLsb', BitVec.getLsbD_append, Nat.zero_add]
  by_cases h : i < 8
  · simp only [h, if_true, decide_true, Bool.true_and]
  · have h1 : i - 8 < 24 := by omega
    have h2 : 8 + (i - 8) = i := by omega
    simp only [h, h1, h2, if_false, decide_true, Bool.true_and]

/-- The argument of format W is its reserved bits, the register byte and the data. -/
theorem formatW_append (arg : BitVec 32) : arg.extractLsb' 24 8 ++ arg.extractLsb' 16 8 ++ arg.extractLsb' 0 16 = arg := by
  apply BitVec.eq_of_getLsbD_eq
  intro i hi
  simp only [BitVec.getLsbD_extractLsb', BitVec.getLsbD_append, Nat.zero_add]
  by_cases h : i < 16
  · simp only [h, if_true, decide_true, Bool.true_and]
  · by_cases h' : i - 16 < 8
    · have : 16 + (i - 16) = i := by omega
      simp only [h, h', this, if_true, if_false, decide_true, Bool.true_and]
    · have h1 : i - 16 - 8 < 8 := by omega
      have h2 : 24 + (i - 16 - 8) = i := by omega
      simp only [h, h', h1, h2, if_false, decide_true, Bool.true_and]

/-- The argument of format R is its four bytes. -/
theorem formatR_append (arg : BitVec 32) :
    arg.extractLsb' 24 8 ++ arg.extractLsb' 16 8 ++ arg.extractLsb' 8 8 ++ arg.extractLsb' 0 8 = arg := by
  apply BitVec.eq_of_getLsbD_eq
  intro i hi
  simp only [BitVec.getLsbD_extractLsb', BitVec.getLsbD_append, Nat.zero_add]
  by_cases h : i < 8
  · simp only [h, if_true, decide_true, Bool.true_and]
  · by_cases h' : i - 8 < 8
    · have : 8 + (i - 8) = i := by omega
      simp only [h, h', this, if_true, if_false, decide_true, Bool.true_and]
    · by_cases h'' : i - 8 - 8 < 8
      · have : 16 + (i - 8 - 8) = i := by omega
        simp only [h, h', h'', this, if_true, if_false, decide_true, Bool.true_and]
      · have h1 : i - 8 - 8 - 8 < 8 := by omega
        have h2 : 24 + (i - 8 - 8 - 8) = i := by omega
        simp only [h, h', h'', h1, h2, if_false, decide_true, Bool.true_and]

/-- Fields of appended values, for the three formats. -/
theorem extract_append_low {m n : Nat} (x : BitVec m) (y : BitVec n) : (x ++ y).extractLsb' 0 n = y := by
  apply BitVec.eq_of_getLsbD_eq
  intro i hi
  simp only [BitVec.getLsbD_extractLsb', BitVec.getLsbD_append, Nat.zero_add, hi, if_true, decide_true, Bool.true_and]

/-- A field that lies in the upper of two appended values. -/
theorem extract_append_high {m n k at' : Nat} (x : BitVec m) (y : BitVec n) (h : n ≤ at') :
    (x ++ y).extractLsb' at' k = x.extractLsb' (at' - n) k := by
  apply BitVec.eq_of_getLsbD_eq
  intro i hi
  have h1 : ¬ at' + i < n := by omega
  have h2 : at' + i - n = at' - n + i := by omega
  simp only [BitVec.getLsbD_extractLsb', BitVec.getLsbD_append, h1, h2, if_false]

/-- The whole of a value, as a field. -/
theorem extract_all {n : Nat} (x : BitVec n) : x.extractLsb' 0 n = x := by
  apply BitVec.eq_of_getLsbD_eq
  intro i hi
  simp only [BitVec.getLsbD_extractLsb', Nat.zero_add, hi, decide_true, Bool.true_and]

/-- Format B reads back the byte its argument was made of. -/
@[simp] theorem formatB_argument (b : Byte) (mk : Byte → Instr) : formatB (0#24 ++ b) mk = .ok (mk b) := by
  simp only [formatB, extract_append_high (0#24) b (Nat.le_refl 8), Nat.sub_self, extract_all, extract_append_low, if_true]

/-- Format W reads back the register byte and the data its argument was made of. -/
@[simp] theorem formatW_argument (reg : Byte) (data : Data) (mk : Byte → Data → Instr) :
    formatW (0#8 ++ reg ++ data) mk = .ok (mk reg data) := by
  have h1 : (0#8 ++ reg ++ data).extractLsb' 24 8 = 0#8 := by
    rw [extract_append_high _ _ (by decide), extract_append_high _ _ (by decide), extract_all]
  have h2 : (0#8 ++ reg ++ data).extractLsb' 16 8 = reg := by
    rw [extract_append_high _ _ (by decide), Nat.sub_self, extract_append_low]
  simp only [formatW, h1, h2, extract_append_low, if_true]

/-- Format R reads back the four bytes its argument was made of. -/
@[simp] theorem formatR_argument (reg lo hi pec : Byte) (mk : Byte → Byte → Byte → Byte → Instr) :
    formatR (reg ++ lo ++ hi ++ pec) mk = .ok (mk reg lo hi pec) := by
  have h1 : (reg ++ lo ++ hi ++ pec).extractLsb' 24 8 = reg := by
    rw [extract_append_high _ _ (by decide), extract_append_high _ _ (by decide), extract_append_high _ _ (by decide),
      extract_all]
  have h2 : (reg ++ lo ++ hi ++ pec).extractLsb' 16 8 = lo := by
    rw [extract_append_high _ _ (by decide), extract_append_high _ _ (by decide), Nat.sub_self, extract_append_low]
  have h3 : (reg ++ lo ++ hi ++ pec).extractLsb' 8 8 = hi := by
    rw [extract_append_high _ _ (by decide), Nat.sub_self, extract_append_low]
  simp only [formatR, h1, h2, h3, extract_append_low]

/-- A word whose fields are given is of a format B row exactly when the row's bits are. -/
theorem and_fields (w : Word) (mo : Byte) (mr : BitVec 24) (ma : BitVec 32) :
    w &&& (mo ++ mr ++ ma) = (opField w &&& mo) ++ (rsvField w &&& mr) ++ (argField w &&& ma) := by
  conv_lhs => rw [← fields_append w]
  rw [BitVec.and_append, BitVec.and_append]

/-- A format B word written as its opcode, 48 zero bits and its byte. -/
theorem word_formatB (op b : Byte) : (op ++ 0#48 ++ b : Word) = op ++ 0#24 ++ (0#24 ++ b) := by
  apply BitVec.eq_of_getLsbD_eq
  intro i hi
  simp only [BitVec.getLsbD_append, BitVec.getLsbD_zero]
  split_ifs <;> first | rfl | omega

/-- A format W word written as its opcode, 32 zero bits, its register byte and its data. -/
theorem word_formatW (op reg : Byte) (data : Data) :
    (op ++ 0#32 ++ reg ++ data : Word) = op ++ 0#24 ++ (0#8 ++ reg ++ data) := by
  apply BitVec.eq_of_getLsbD_eq
  intro i hi
  simp only [BitVec.getLsbD_append, BitVec.getLsbD_zero]
  split_ifs <;> first | rfl | omega

/-- A format R word written as its opcode, 24 zero bits and its four bytes. -/
theorem word_formatR (op reg lo hi pec : Byte) :
    (op ++ 0#24 ++ reg ++ lo ++ hi ++ pec : Word) = op ++ 0#24 ++ (reg ++ lo ++ hi ++ pec) := by
  apply BitVec.eq_of_getLsbD_eq
  intro i h
  simp only [BitVec.getLsbD_append, BitVec.getLsbD_zero]
  split_ifs <;> first | rfl | omega

end Sys2Proof
end

