-- ==== Sys2Proof/Laws/State.lean ====
section
/-! SUPPORT. What each update of the state changes and keeps: one lemma per field per update. -/

namespace Sys2Proof.Machine

section
variable (s : State)

@[simp] theorem State.setCrc_regs (v : Byte) : (s.setCrc v).regs = { s.regs with crc := v } := rfl
@[simp] theorem State.setCrc_params (v : Byte) : (s.setCrc v).params = s.params := rfl
@[simp] theorem State.setCrc_host (v : Byte) : (s.setCrc v).host = s.host := rfl

@[simp] theorem State.setSa_regs (a : Addr) : (s.setSa a).regs = { s.regs with sa := a } := rfl
@[simp] theorem State.setSa_params (a : Addr) : (s.setSa a).params = s.params := rfl
@[simp] theorem State.setSa_host (a : Addr) : (s.setSa a).host = s.host := rfl

@[simp] theorem State.setCode_regs (c : BitVec 3) : (s.setCode c).regs = { s.regs with code := c } := rfl
@[simp] theorem State.setCode_params (c : BitVec 3) : (s.setCode c).params = s.params := rfl
@[simp] theorem State.setCode_host (c : BitVec 3) : (s.setCode c).host = s.host := rfl

@[simp] theorem State.setRdv_regs (b : Bool) : (s.setRdv b).regs = { s.regs with rdv := b } := rfl
@[simp] theorem State.setRdv_params (b : Bool) : (s.setRdv b).params = s.params := rfl
@[simp] theorem State.setRdv_host (b : Bool) : (s.setRdv b).host = s.host := rfl

@[simp] theorem State.setTxlen_regs (n : BitVec 3) : (s.setTxlen n).regs = { s.regs with txlen := n } := rfl
@[simp] theorem State.setTxlen_params (n : BitVec 3) : (s.setTxlen n).params = s.params := rfl
@[simp] theorem State.setTxlen_host (n : BitVec 3) : (s.setTxlen n).host = s.host := rfl

@[simp] theorem State.setTxf_regs (v : Port) : (s.setTxf v).regs = { s.regs with txf := v } := rfl
@[simp] theorem State.setTxf_params (v : Port) : (s.setTxf v).params = s.params := rfl
@[simp] theorem State.setTxf_host (v : Port) : (s.setTxf v).host = s.host := rfl

@[simp] theorem State.setRdata_regs (v : Data) : (s.setRdata v).regs = { s.regs with rdata := v } := rfl
@[simp] theorem State.setRdata_params (v : Data) : (s.setRdata v).params = s.params := rfl
@[simp] theorem State.setRdata_host (v : Data) : (s.setRdata v).host = s.host := rfl

@[simp] theorem State.finish_regs : s.finish.regs = { s.regs with code := codeOk } := rfl
@[simp] theorem State.finish_params : s.finish.params = s.params := rfl
@[simp] theorem State.finish_host : s.finish.host = s.host := rfl

@[simp] theorem State.fail_regs (c : BitVec 3) : (s.fail c).regs = { s.regs with code := c } := rfl
@[simp] theorem State.fail_params (c : BitVec 3) : (s.fail c).params = s.params := rfl
@[simp] theorem State.fail_host (c : BitVec 3) : (s.fail c).host = s.host := rfl

@[simp] theorem State.illegal_regs : s.illegal.regs = { s.regs with code := codeIllegal } := rfl
@[simp] theorem State.illegal_params : s.illegal.params = s.params := rfl
@[simp] theorem State.illegal_host : s.illegal.host = s.host := rfl

@[simp] theorem State.resetBlock_regs : s.resetBlock.regs = Regs.reset := rfl
@[simp] theorem State.resetBlock_params : s.resetBlock.params = s.params := rfl
@[simp] theorem State.resetBlock_host : s.resetBlock.host = s.host := rfl

@[simp] theorem State.answerRead_regs (idx : Byte) : (s.answerRead idx).regs = s.regs := rfl
@[simp] theorem State.answerRead_params (idx : Byte) : (s.answerRead idx).params = s.params := rfl
@[simp] theorem State.answerRead_script (idx : Byte) : (s.answerRead idx).host.script = s.host.script := rfl
@[simp] theorem State.answerRead_replies (idx : Byte) :
    (s.answerRead idx).host.replies = s.host.replies ++ [(idx, s.regs.read idx)] := rfl

@[simp] theorem State.take_regs (q : List Request) : (s.take q).regs = s.regs := rfl
@[simp] theorem State.take_params (q : List Request) : (s.take q).params = s.params := rfl
@[simp] theorem State.take_script (q : List Request) : (s.take q).host.script = q := rfl
@[simp] theorem State.take_replies (q : List Request) : (s.take q).host.replies = s.host.replies := rfl
@[simp] theorem State.take_take (q r : List Request) : (s.take q).take r = s.take r := rfl
@[simp] theorem State.take_self : s.take s.host.script = s := rfl

@[simp] theorem State.issueFirst_script (q : Request) : (s.issueFirst q).host.script = q :: s.host.script := rfl
@[simp] theorem State.issueFirst_regs (q : Request) : (s.issueFirst q).regs = s.regs := rfl
@[simp] theorem State.issueFirst_params (q : Request) : (s.issueFirst q).params = s.params := rfl

@[simp] theorem State.frameWrite_regs (reg : Byte) (data : Data) : (s.frameWrite reg data).regs =
    { s.regs with crc := wpec s.regs.sa reg data, txf := packWrite (wpec s.regs.sa reg data) reg data, txlen := 4 } := rfl
@[simp] theorem State.frameWrite_params (reg : Byte) (data : Data) : (s.frameWrite reg data).params = s.params := rfl
@[simp] theorem State.frameWrite_host (reg : Byte) (data : Data) : (s.frameWrite reg data).host = s.host := rfl

end

end Sys2Proof.Machine
end

