-- ==== Sys2Proof/Laws/Ops.lean ====
section
/-! SUPPORT. The small lemmas of the shared operations: the CRC sequence, the STATUS fields, the read port, the frame bytes. -/

namespace Sys2Proof.Machine

@[simp] theorem crcSeq_nil (c : Byte) : crcSeq c [] = c := rfl
@[simp] theorem crcSeq_cons (c b : Byte) (rest : List Byte) : crcSeq c (b :: rest) = crcSeq (crc8 c b) rest := rfl

/-- The host reads back the code (R25). -/
@[simp] theorem statusCode_status (r : Regs) : statusCode r.status = r.code := extract_append_low _ _

/-- The host reads back `RDV` (R25). -/
@[simp] theorem statusRdv_status (r : Regs) : statusRdv r.status = r.rdv := by
  simp only [statusRdv, Regs.status, BitVec.getLsbD_append]
  cases r.rdv <;> rfl

/-- The host reads back `TXLEN` (R25). -/
@[simp] theorem statusTxlen_status (r : Regs) : statusTxlen r.status = r.txlen := by
  unfold statusTxlen Regs.status
  rw [extract_append_high _ _ (by decide), extract_append_high _ _ (by decide), extract_append_low]

@[simp] theorem Regs.read_crc (r : Regs) : r.read 0x00#8 = r.crc.setWidth 32 := rfl
@[simp] theorem Regs.read_sa (r : Regs) : r.read 0x01#8 = r.sa.setWidth 32 := rfl
@[simp] theorem Regs.read_status (r : Regs) : r.read 0x02#8 = r.status := rfl
@[simp] theorem Regs.read_txf (r : Regs) : r.read 0x03#8 = r.txf := rfl
@[simp] theorem Regs.read_rdata (r : Regs) : r.read 0x04#8 = r.rdata.setWidth 32 := rfl

/-- `RDATA` is read back whole. -/
@[simp] theorem setWidth_setWidth_data (v : Data) : (v.setWidth 32).setWidth 16 = v := by
  apply BitVec.eq_of_toNat_eq
  have := v.isLt
  simp only [BitVec.toNat_setWidth]
  omega

@[simp] theorem frameByte_packWrite_0 (pec reg : Byte) (data : Data) : frameByte (packWrite pec reg data) 0 = reg :=
  extract_append_low _ _

@[simp] theorem frameByte_packWrite_1 (pec reg : Byte) (data : Data) :
    frameByte (packWrite pec reg data) 1 = dataLo data := by
  unfold frameByte packWrite
  rw [extract_append_high _ _ (by decide)]
  exact extract_append_low _ _

@[simp] theorem frameByte_packWrite_2 (pec reg : Byte) (data : Data) :
    frameByte (packWrite pec reg data) 2 = dataHi data := by
  unfold frameByte packWrite
  rw [extract_append_high _ _ (by decide), extract_append_high _ _ (by decide)]
  exact extract_append_low _ _

@[simp] theorem frameByte_packWrite_3 (pec reg : Byte) (data : Data) : frameByte (packWrite pec reg data) 3 = pec := by
  unfold frameByte packWrite
  rw [extract_append_high _ _ (by decide), extract_append_high _ _ (by decide), extract_append_high _ _ (by decide)]
  exact extract_all _

@[simp] theorem frameByte_packRead (reg : Byte) : frameByte (packRead reg) 0 = reg := by
  unfold frameByte packRead
  apply BitVec.eq_of_getLsbD_eq
  intro i hi
  have : i < 32 := by omega
  simp only [BitVec.getLsbD_extractLsb', BitVec.getLsbD_setWidth, Nat.mul_zero, Nat.zero_add, hi, this, decide_true,
    Bool.true_and]

/-- A data word is its two halves, high above low (R44). -/
@[simp] theorem packData_halves (data : Data) : packData (dataLo data) (dataHi data) = data := by
  apply BitVec.eq_of_getLsbD_eq
  intro i hi
  simp only [packData, dataHi, dataLo, BitVec.getLsbD_extractLsb', BitVec.getLsbD_append, Nat.zero_add]
  by_cases h : i < 8
  · simp only [h, if_true, decide_true, Bool.true_and]
  · have h1 : i - 8 < 8 := by omega
    have h2 : 8 + (i - 8) = i := by omega
    simp only [h, h1, h2, if_false, decide_true, Bool.true_and]

/-- No byte of a frame is valid when `TXLEN` is 0. -/
theorem frame_of_txlen_0 (r : Regs) (h : r.txlen = 0) : r.frame = [] := by
  simp only [Regs.frame, frameOf, Regs.read_status, statusTxlen_status, h]
  rfl

/-- The one byte of a read's command frame. -/
theorem frame_of_txlen_1 (r : Regs) (h : r.txlen = 1) : r.frame = [frameByte r.txf 0] := by
  simp only [Regs.frame, frameOf, Regs.read_status, Regs.read_txf, statusTxlen_status, h]
  rfl

/-- The four bytes of a write frame. -/
theorem frame_of_txlen_4 (r : Regs) (h : r.txlen = 4) :
    r.frame = [frameByte r.txf 0, frameByte r.txf 1, frameByte r.txf 2, frameByte r.txf 3] := by
  simp only [Regs.frame, frameOf, Regs.read_status, Regs.read_txf, statusTxlen_status, h]
  rfl

end Sys2Proof.Machine
end

