-- ==== Sys2Proof/Laws/Port.lean ====
section
/-! SUPPORT. What a command, a request and a step can do, said once. -/

namespace Sys2Proof.Machine

/-- A command always has a next state, and it keeps the parameters and the host's side. -/
theorem exec_next (i : Instr) (s : State) : ∃ t, exec i s = .next t ∧ t.params = s.params ∧ t.host = s.host := by
  cases i <;> simp only [exec, execCrcLoad, execCrcUpdate, execCrcCompare, execSetAddr, execFrameWrite, execFrameRead,
    execCheckRead] <;> refine ⟨_, rfl, ?_, ?_⟩ <;> (try split) <;> rfl

/-- What holds of every command's next state holds whatever the next state is called. -/
theorem exec_keeps {i : Instr} {s t : State} (h : exec i s = .next t) : t.params = s.params ∧ t.host = s.host := by
  obtain ⟨u, hu, hp, hh⟩ := exec_next i s
  rw [hu] at h
  cases h
  exact ⟨hp, hh⟩

theorem commandPort_ok {w : Word} {i : Instr} (h : decode w = .ok i) (s : State) : commandPort w s = exec i s := by
  simp only [commandPort, h]

theorem commandPort_error {w : Word} {e : Illegal} (h : decode w = .error e) (s : State) :
    commandPort w s = .next s.illegal := by
  simp only [commandPort, h]

/-- The command port always answers a next state, and it keeps the parameters and the host's side. -/
theorem commandPort_next (w : Word) (s : State) :
    ∃ t, commandPort w s = .next t ∧ t.params = s.params ∧ t.host = s.host := by
  cases h : decode w with
  | error e => exact ⟨_, commandPort_error h s, rfl, rfl⟩
  | ok i => rw [commandPort_ok h]; exact exec_next i s

/-- Everything a command word can do: the next state of each outcome, with what the outcome rests on. -/
theorem commandPort_cases {w : Word} {s t : State} (h : commandPort w s = .next t) :
    (∃ e, decode w = .error e ∧ t = s.illegal) ∨
    (∃ b, decode w = .ok (.crcLoad b) ∧ t = (s.setCrc b).finish) ∨
    (∃ b, decode w = .ok (.crcUpdate b) ∧ t = (s.setCrc (crc8 s.regs.crc b)).finish) ∨
    (∃ b, decode w = .ok (.crcCompare b) ∧ s.regs.crc = b ∧ t = s.finish) ∨
    (∃ b, decode w = .ok (.crcCompare b) ∧ s.regs.crc ≠ b ∧ t = s.fail codeChecksum) ∨
    (∃ b, decode w = .ok (.setAddr b) ∧ refusesAddr s.params b = true ∧ t = s.fail codeRange) ∨
    (∃ b, decode w = .ok (.setAddr b) ∧ refusesAddr s.params b = false ∧ t = (s.setSa (addrOf b)).finish) ∨
    (∃ r d, decode w = .ok (.frameWrite r d) ∧ s.params.isProtected r = true ∧
      t = (s.setTxlen 0).fail codeProtected) ∨
    (∃ r d, decode w = .ok (.frameWrite r d) ∧ s.params.isProtected r = false ∧ t = (s.frameWrite r d).finish) ∨
    (∃ r, decode w = .ok (.frameRead r) ∧ t = ((s.setTxf (packRead r)).setTxlen 1).finish) ∨
    (∃ r lo hi p, decode w = .ok (.checkRead r lo hi p) ∧ rpec s.regs.sa r lo hi = p ∧
      t = (((s.setCrc (rpec s.regs.sa r lo hi)).setRdata (packData lo hi)).setRdv true).finish) ∨
    (∃ r lo hi p, decode w = .ok (.checkRead r lo hi p) ∧ rpec s.regs.sa r lo hi ≠ p ∧
      t = ((s.setCrc (rpec s.regs.sa r lo hi)).setRdv false).fail codeChecksum) := by
  cases hd : decode w with
  | error e => rw [commandPort_error hd] at h; cases h; simp
  | ok i =>
    rw [commandPort_ok hd] at h
    cases i <;> simp only [exec, execCrcLoad, execCrcUpdate, execCrcCompare, execSetAddr, execFrameWrite, execFrameRead,
      execCheckRead] at h <;> cases h <;> (try split) <;> simp_all

/-- The command port keeps the parameters and the host's side. -/
theorem commandPort_keeps {w : Word} {s t : State} (h : commandPort w s = .next t) :
    t.params = s.params ∧ t.host = s.host := by
  obtain ⟨u, hu, a, b⟩ := commandPort_next w s
  rw [hu] at h
  cases h
  exact ⟨a, b⟩

/-- Everything a step can do when it answers a next state. -/
theorem step_cases {s t : State} (h : step s = .next t) :
    (s.host.script = [] ∧ t = s) ∨
    (∃ w rest, s.host.script = .command w :: rest ∧ commandPort w (s.take rest) = .next t) ∨
    (∃ idx rest, s.host.script = .read idx :: rest ∧ t = (s.take rest).answerRead idx) ∨
    (∃ rest, s.host.script = .reset :: rest ∧ t = (s.take rest).resetBlock) := by
  unfold step at h
  split at h
  next hs => cases h; exact .inl ⟨hs, rfl⟩
  next q rest hs =>
    cases q with
    | command w => exact .inr (.inl ⟨w, rest, hs, h⟩)
    | read idx => cases h; exact .inr (.inr (.inl ⟨idx, rest, hs, rfl⟩))
    | reset => cases h; exact .inr (.inr (.inr ⟨rest, hs, rfl⟩))
    | unserialised => cases h

/-- A step with a request serves it. -/
theorem step_cons {s : State} {q : Request} {rest : List Request} (h : s.host.script = q :: rest) :
    step s = serve q (s.take rest) := by
  simp only [step, h]

/-- A step with no request waits. -/
theorem step_nil {s : State} (h : s.host.script = []) : step s = .next s := by
  simp only [step, h]

/-- The word placed by `withFetchWord` is the one the next step serves, in the state as it was. -/
theorem step_withFetchWord (s : State) (nbits w : Nat) :
    step (s.withFetchWord nbits w) = commandPort (tableWord nbits w) s := by
  rw [step_cons (q := .command (tableWord nbits w)) (rest := s.host.script) rfl]
  rfl

/-- A whole word is its own table word. -/
@[simp] theorem tableWord_toNat (w : Word) : tableWord 64 w.toNat = w := by
  apply BitVec.eq_of_toNat_eq
  have := w.isLt
  simp only [tableWord, BitVec.toNat_ofNat]
  omega

end Sys2Proof.Machine
end

