-- ==== Sys2Proof/Laws/Driver.lean ====
section
/-! SUPPORT. The small lemmas of the host driver: what each of its operations changes and keeps. -/

namespace Sys2Proof.Machine

section
variable (d : Driver)

/-- The code the host reads is the block's (R25, R41). -/
@[simp] theorem Driver.code_eq : d.code = d.block.regs.code := by
  simp only [Driver.code, Regs.read_status, statusCode_status]

@[simp] theorem Driver.note_block (e : Option HostError) : (d.note e).block = d.block := rfl
@[simp] theorem Driver.note_acks (e : Option HostError) : (d.note e).acks = d.acks := rfl
@[simp] theorem Driver.note_responses (e : Option HostError) : (d.note e).responses = d.responses := rfl
@[simp] theorem Driver.note_received (e : Option HostError) : (d.note e).received = d.received := rfl
@[simp] theorem Driver.note_log (e : Option HostError) : (d.note e).log = d.log := rfl
@[simp] theorem Driver.note_error (e : Option HostError) : (d.note e).error = (d.error <|> e) := rfl

@[simp] theorem Driver.begin_block : d.begin.block = d.block := rfl
@[simp] theorem Driver.begin_acks : d.begin.acks = d.acks := rfl
@[simp] theorem Driver.begin_responses : d.begin.responses = d.responses := rfl
@[simp] theorem Driver.begin_received : d.begin.received = d.received := rfl
@[simp] theorem Driver.begin_log : d.begin.log = d.log := rfl
@[simp] theorem Driver.begin_error : d.begin.error = none := rfl

@[simp] theorem Driver.send_block : d.send.block = d.block := rfl
@[simp] theorem Driver.send_acks : d.send.acks = d.acks.tail := rfl
@[simp] theorem Driver.send_responses : d.send.responses = d.responses := rfl
@[simp] theorem Driver.send_received : d.send.received = d.received := rfl
@[simp] theorem Driver.send_log : d.send.log = d.log ++ [.sent d.block.regs.frame (d.acks.headD false)] := rfl
@[simp] theorem Driver.send_error :
    d.send.error = (d.error <|> if d.acks.headD false then none else some .transport) := rfl

@[simp] theorem Driver.transact_block : d.transact.block = d.block := rfl
@[simp] theorem Driver.transact_acks : d.transact.acks = d.acks := rfl
@[simp] theorem Driver.transact_responses : d.transact.responses = d.responses.tail := rfl
@[simp] theorem Driver.transact_received : d.transact.received = d.responses.headD none := rfl
@[simp] theorem Driver.transact_log :
    d.transact.log = d.log ++ [.received d.block.regs.frame (d.responses.headD none)] := rfl
@[simp] theorem Driver.transact_error : d.transact.error = d.error := rfl

/-- What the host's issue of a command does, once the command's word decodes to it. -/
theorem Driver.issue_of {i : Instr} {b : State} (hd : decode (encode i) = .ok i) (h : exec i d.block = .next b) :
    d.issue i = .next (({ d with block := b } : Driver).note (codeError b.regs.code)) := by
  simp only [Driver.issue, commandPort_ok hd, h, Regs.read_status, statusCode_status]

@[simp] theorem Driver.performAll_nil : d.performAll [] = .next d := rfl

/-- The items after one that answers a next driver. -/
theorem Driver.performAll_cons {e : Driver} {x : Item} (rest : List Item) (h : d.perform x = .next e) :
    d.performAll (x :: rest) = e.performAll rest := by
  simp only [Driver.performAll, h]

/-- A write of an EEPROM-backed register is the sequence of R109, with its report of both phases. -/
theorem Driver.writeRegister_backed {backed : Byte → Bool} {reg : Byte} (data : Data) (hb : backed reg = true) :
    d.writeRegister backed reg data = d.eepromWrite reg data := by
  simp only [Driver.writeRegister, hb, if_true]

/-- A write of another register is one WRITE_WORD, and its error is the write phase's. -/
theorem Driver.writeRegister_word {w : Driver} {backed : Byte → Bool} {reg : Byte} {data : Data} (hb : backed reg = false)
    (h : d.begin.performAll (writeWordItems reg data) = .next w) :
    d.writeRegister backed reg data = .next { driver := w, erase := none, write := w.error } := by
  simp only [Driver.writeRegister, hb, h, Bool.false_eq_true, if_false]

end

end Sys2Proof.Machine
end

