-- ==== Sys2Proof/Laws/PerInstr.lean ====
section
/-! SUPPORT. Per command: it is encoded in its own row of the opcode map (spec 30_encoding.md R63). -/

namespace Sys2Proof.Laws.EncodesInItsRow

/-- The encoded command is covered by a row of the map that bears its mnemonic. -/
def Statement (i : Instr) : Prop := ∃ r ∈ opcodeTable, r.mnemonic = i.mnemonic ∧ r.covers (encode i) = true

/-- A format B row covers the words its pattern's opcode and a byte make. -/
theorem covers_formatB (op b : Byte) :
    (op ++ 0#24 ++ (0#24 ++ b)) &&& 0xFFFFFFFFFFFFFF00#64 = op ++ 0#24 ++ 0#32 := by
  have hm : (0xFFFFFFFFFFFFFF00#64 : Word) = 0xFF#8 ++ 0xFFFFFF#24 ++ (0xFFFFFF#24 ++ 0#8) := by decide
  have ho : op &&& 0xFF#8 = op := by revert op; decide
  rw [hm, BitVec.and_append, BitVec.and_append, BitVec.and_append, ho, BitVec.and_zero]
  rfl

theorem crcLoad (imm8 : Byte) : Statement (.crcLoad imm8) :=
  ⟨_, .head _, rfl, beq_iff_eq.2 (covers_formatB 0x01 imm8)⟩

theorem crcUpdate (imm8 : Byte) : Statement (.crcUpdate imm8) :=
  ⟨_, .tail _ (.head _), rfl, beq_iff_eq.2 (covers_formatB 0x02 imm8)⟩

theorem crcCompare (imm8 : Byte) : Statement (.crcCompare imm8) :=
  ⟨_, .tail _ (.tail _ (.head _)), rfl, beq_iff_eq.2 (covers_formatB 0x03 imm8)⟩

theorem setAddr (imm8 : Byte) : Statement (.setAddr imm8) :=
  ⟨_, .tail _ (.tail _ (.tail _ (.head _))), rfl, beq_iff_eq.2 (covers_formatB 0x10 imm8)⟩

theorem frameWrite (reg : Byte) (data : Data) : Statement (.frameWrite reg data) := by
  refine ⟨_, .tail _ (.tail _ (.tail _ (.tail _ (.head _)))), rfl, beq_iff_eq.2 ?_⟩
  have hm : (0xFFFFFFFFFF000000#64 : Word) = 0xFF#8 ++ 0xFFFFFF#24 ++ (0xFF#8 ++ 0#8 ++ 0#16) := by decide
  show (0x11#8 ++ 0#24 ++ (0#8 ++ reg ++ data)) &&& 0xFFFFFFFFFF000000#64 = 0x1100000000000000#64
  rw [hm, BitVec.and_append, BitVec.and_append, BitVec.and_append, BitVec.and_append, BitVec.and_zero, BitVec.and_zero]
  rfl

theorem frameRead (reg : Byte) : Statement (.frameRead reg) :=
  ⟨_, .tail _ (.tail _ (.tail _ (.tail _ (.tail _ (.head _))))), rfl, beq_iff_eq.2 (covers_formatB 0x12 reg)⟩

theorem checkRead (reg lo hi pec : Byte) : Statement (.checkRead reg lo hi pec) := by
  refine ⟨_, .tail _ (.tail _ (.tail _ (.tail _ (.tail _ (.tail _ (.head _)))))), rfl, beq_iff_eq.2 ?_⟩
  have hm : (0xFFFFFFFF00000000#64 : Word) = 0xFF#8 ++ 0xFFFFFF#24 ++ 0#32 := by decide
  show (0x13#8 ++ 0#24 ++ (reg ++ lo ++ hi ++ pec)) &&& 0xFFFFFFFF00000000#64 = 0x1300000000000000#64
  rw [hm, BitVec.and_append, BitVec.and_append, BitVec.and_zero]
  rfl

end Sys2Proof.Laws.EncodesInItsRow
end

