-- ==== Sys2Proof/Laws/Run.lean ====
section
/-! SUPPORT. Runs of several steps: one step more, and one command more of those the host issues. -/

namespace Sys2Proof.Machine

theorem core_run_zero (s : State) : Sys2Proof.core.run 0 s = .next s := rfl

/-- A run goes on from the step's next state. -/
theorem core_run_succ {s t : State} (k : Nat) (h : step s = .next t) :
    Sys2Proof.core.run (k + 1) s = Sys2Proof.core.run k t := by
  have h' : Sys2Proof.core.step s = .next t := h
  simp only [Host.Core.run, h']

/-- A run that ends in a next state began with a step that has one. -/
theorem core_run_succ_inv {s t : State} {k : Nat} (h : Sys2Proof.core.run (k + 1) s = .next t) :
    ∃ u, step s = .next u ∧ Sys2Proof.core.run k u = .next t := by
  simp only [Host.Core.run] at h
  cases hs : Sys2Proof.core.step s with
  | next u => rw [hs] at h; exact ⟨u, hs, h⟩
  | fault f => rw [hs] at h; cases h
  | refused r => rw [hs] at h; cases h

@[simp] theorem State.issueAll_nil (s : State) : s.issueAll [] = s := rfl

/-- What a command does does not depend on what the host has still to issue, and leaves it alone. -/
theorem exec_take {i : Instr} {s t : State} (h : exec i s = .next t) (q : List Request) :
    exec i (s.take q) = .next (t.take q) := by
  cases i with
  | crcLoad _ | crcUpdate _ | frameRead _ => cases h; rfl
  | crcCompare _ | setAddr _ | frameWrite _ _ | checkRead _ _ _ _ =>
    cases h
    refine congrArg Host.Outcome.next (Eq.symm ?_)
    exact (apply_ite (fun u : State => u.take q) _ _ _).trans rfl

end Sys2Proof.Machine
end

