-- ==== Sys2Proof/Tests/Slice0.lean ====
section
/-! SUPPORT. Tests. Expected values are those of spec 95_test_vectors.md (V1 to V14, P1, P2, E1 to E9), of the table of 40_crc.md R83
and of the rules; none was taken from the model. The second half has, for each statement with hypotheses, a concrete state
and operands that meet them. -/

namespace Sys2Proof.Tests

set_option Elab.async false

open Sys2Proof Sys2Proof.Machine

/-! ## Helpers -/

/-- The next state, when there is one. -/
def nextOf (o : Host.Outcome State Fault Refusal) : Option State :=
  match o with
  | .next t => some t
  | .fault _ => none
  | .refused _ => none

/-- The next state's registers, when there is one. -/
def nextRegs (o : Host.Outcome State Fault Refusal) : Option Regs := (nextOf o).map State.regs

/-- The reset state of an instance with one protected register and one reserved address (those of P4 and V7). -/
def base : State := { State.reset with params := { protectedRegs := [0x2F], reservedAddrs := [0x00] } }

/-- `base` with other registers. -/
def withRegs (r : Regs) : State := { base with regs := r }

/-- Registers that all differ from reset: the last of a write frame, and a value accepted before. -/
def busy : Regs :=
  { crc := 0xF4, sa := 0x5A, code := 1, rdv := true, txlen := 4, txf := 0x43000025, rdata := 0xBEEF }

/-! ## Well-formedness refuses what R66 calls an assembly error -/

theorem test_wf_accepts : (Written.wellFormed ⟨.setAddr, [0x80]⟩ && Written.wellFormed ⟨.frameWrite, [0xFF, 0xFFFF]⟩ &&
    Written.wellFormed ⟨.checkRead, [0xFF, 0xFF, 0xFF, 0xFF]⟩) = true := by decide
theorem test_wf_refuses_missing_operand : Written.wellFormed ⟨.frameWrite, [0x25]⟩ = false := by decide
theorem test_wf_refuses_extra_operand : Written.wellFormed ⟨.crcLoad, [0x5A, 0x00]⟩ = false := by decide
theorem test_wf_refuses_wide_byte : ([Mnemonic.crcLoad, .crcUpdate, .crcCompare, .setAddr, .frameRead].all fun m =>
    !Written.wellFormed ⟨m, [0x100]⟩) = true := by decide
theorem test_wf_refuses_wide_reg : Written.wellFormed ⟨.frameWrite, [0x100, 0]⟩ = false := by decide
theorem test_wf_refuses_wide_data : Written.wellFormed ⟨.frameWrite, [0, 0x10000]⟩ = false := by decide
theorem test_wf_refuses_wide_response : ([[0x100, 0, 0, 0], [0, 0x100, 0, 0], [0, 0, 0x100, 0], [0, 0, 0, 0x100]].all fun ns =>
    !Written.wellFormed ⟨.checkRead, ns⟩) = true := by decide

/-! ## Decoding: words written out from R60 to R63 and from the vectors -/

theorem test_decode_crcLoad : decode 0x010000000000005A = .ok (.crcLoad 0x5A) := by decide
theorem test_decode_crcUpdate : decode 0x02000000000000B4 = .ok (.crcUpdate 0xB4) := by decide
theorem test_decode_crcCompare : decode 0x03000000000000F4 = .ok (.crcCompare 0xF4) := by decide
theorem test_decode_setAddr : decode 0x10000000000000FF = .ok (.setAddr 0xFF) := by decide
theorem test_decode_frameWrite : decode 0x11000000002E005A = .ok (.frameWrite 0x2E 0x005A) := by decide
theorem test_decode_frameRead : decode 0x120000000000002E = .ok (.frameRead 0x2E) := by decide
theorem test_decode_checkRead : decode 0x130000002E5A00E0 = .ok (.checkRead 0x2E 0x5A 0x00 0xE0) := by decide

/-- V11, and V4's reserved bit. -/
theorem test_decode_illegal : ([0x0000000000000000, 0x0400000000000000, 0x1400000000000000, 0xFF00000000000000,
    0x0100000100000005, 0x0200000000000100, 0x1101000000250000, 0x1100000001250000, 0x1300000100000000,
    0x0100000000000100].all fun w => (decode w).toOption.isNone) = true := by decide

/-- A table word of 64 bits is read whole. -/
theorem test_decodeTableWord : decodeTableWord 64 0x1300000007D23A30 = some (.checkRead 0x07 0xD2 0x3A 0x30) := by decide

/-! ## The CRC (V1 to V3, R83) -/

theorem test_crc8_trace : List.map (fun n => Nat.repeat crcShift n 0xB4) [1, 2, 3, 4, 5, 6, 7, 8] =
    [0x6F, 0xDE, 0xBB, 0x71, 0xE2, 0xC3, 0x81, 0x05] := by decide +kernel
theorem test_crc8_vectors : (crc8 0x00 0x80 = 0x89 ∧ crc8 0x00 0xFF = 0xF3 ∧ crc8 0x00 0x55 = 0xAC ∧ crc8 0x00 0xAA = 0x5F) ∧
    (crc8 0x12 0x12 = 0x00 ∧ crc8 0xFF 0x00 = 0xF3 ∧ crc8 0x01 0x00 = 0x07) := by decide +kernel
theorem test_crcSeq_check : crcSeq 0x00 [0x31, 0x32, 0x33, 0x34, 0x35, 0x36, 0x37, 0x38, 0x39, 0xF4] = 0x00 := by decide +kernel

/-! ## One command -/

/-- V4. -/
theorem test_crcLoad : nextRegs (exec (.crcLoad 0x5A) base) = some { Regs.reset with crc := 0x5A } := by decide +kernel
/-- V4, R85: every other field is kept, the code is not. -/
theorem test_crcLoad_keeps : nextRegs (exec (.crcLoad 0x00) (withRegs busy)) = some { busy with crc := 0x00, code := 0 } := by
  decide +kernel

/-- V5. -/
theorem test_crcUpdate : nextRegs (exec (.crcUpdate 0x07) (withRegs { busy with crc := 0x05 })) =
    some { busy with crc := 0x0E, code := 0 } := by decide +kernel
/-- V5: the byte equal to the accumulator clears it. -/
theorem test_crcUpdate_self : nextRegs (exec (.crcUpdate 0x3C) (withRegs { busy with crc := 0x3C })) =
    some { busy with crc := 0x00, code := 0 } := by decide +kernel

/-- V6. -/
theorem test_crcCompare_equal : nextRegs (exec (.crcCompare 0xF4) (withRegs busy)) = some { busy with code := 0 } := by
  decide +kernel
theorem test_crcCompare_differs : nextRegs (exec (.crcCompare 0xF5) (withRegs { busy with code := 0 })) = some busy := by
  decide +kernel

/-- V7. -/
theorem test_setAddr_top : nextRegs (exec (.setAddr 0x7F) base) = some { Regs.reset with sa := 0x7F } := by decide +kernel
theorem test_setAddr_range : [0x80#8, 0xFF#8, 0x00#8].map (fun b => nextRegs (exec (.setAddr b) base)) =
    List.replicate 3 (some { Regs.reset with code := 3 }) := by decide +kernel

/-- V8, second row, and P4's second address. -/
theorem test_frameWrite : nextRegs (exec (.frameWrite 0x25 0xB7F4) base) =
      some { Regs.reset with crc := 0x0F, txf := 0x0FB7F425, txlen := 4 } ∧
    nextRegs (exec (.frameWrite 0x25 0xB7F4) (withRegs { busy with sa := 0x5B })) =
      some { busy with sa := 0x5B, crc := 0x23, txf := 0x23B7F425, code := 0 } := by decide +kernel
/-- V8, P4 step 7. -/
theorem test_frameWrite_protected : nextRegs (exec (.frameWrite 0x2F 0x1234) (withRegs busy)) =
    some { busy with txlen := 0, code := 2 } := by decide +kernel

/-- V9. -/
theorem test_frameRead : nextRegs (exec (.frameRead 0xFF) (withRegs busy)) =
    some { busy with txf := 0x000000FF, txlen := 1, code := 0 } := by decide +kernel
/-- R106: "Reads are never refused". -/
theorem test_frameRead_protected : nextRegs (exec (.frameRead 0x2F) base) =
    some { Regs.reset with txf := 0x0000002F, txlen := 1 } := by decide +kernel

/-- V10, first row. -/
theorem test_checkRead : nextRegs (exec (.checkRead 0x07 0xD2 0x3A 0x30) (withRegs { busy with rdv := false })) =
    some { busy with crc := 0x30, rdata := 0x3AD2, code := 0 } := by decide +kernel
/-- V10, second row. -/
theorem test_checkRead_differs : nextRegs (exec (.checkRead 0x07 0xD2 0x3A 0x31) (withRegs { busy with code := 0 })) =
    some { busy with crc := 0x30, rdv := false, code := 1 } := by decide +kernel

/-! ## The ports and the step -/

/-- V14. -/
theorem test_read_port : [0x00#8, 0x01#8, 0x02#8, 0x03#8, 0x04#8, 0x05#8, 0xFF#8].map Regs.reset.read =
    [0x00000000, 0x0000005A, 0x00000000, 0x00000000, 0x00000000, 0x00000000, 0x00000000] := by decide +kernel
/-- The STATUS layout of R25 with every field set: 1 + 8 + 4 * 16. -/
theorem test_read_status : busy.read 0x02#8 = 0x00000049 := by decide +kernel

/-- A step from reset with a word placed runs it (V4), for `State.reset` itself. -/
theorem test_step_withFetchWord : nextRegs (step (State.reset.withFetchWord 64 0x010000000000005A)) =
    some { Regs.reset with crc := 0x5A } := by decide +kernel
/-- V11: the all-zero word. -/
theorem test_step_illegal : nextRegs (step ((withRegs busy).withFetchWord 64 0)) = some { busy with code := 4 } := by
  decide +kernel

/-! ## The assembler and the host -/

/-- R66: hexadecimal and decimal operands, a comment, and an operand that does not fit. -/
theorem test_assemble_lines : (assembleLine "CHECK_READ 0x2E, 90, 0x00, 0xE0 ; P2").toOption =
      some [.command (.checkRead 0x2E 0x5A 0x00 0xE0)] ∧
    (assembleLine "FRAME_WRITE 0x25, 0x10000").toOption = none ∧ (assembleLine "SET_ADDR 0x80").toOption =
      some [.command (.setAddr 0x80)] := by decide +kernel
/-- R67. -/
theorem test_assemble_pseudo : (assembleLine "CRC_OF 0x31, 0x32").toOption =
    some [.command (.crcLoad 0x00), .command (.crcUpdate 0x31), .command (.crcUpdate 0x32)] := by decide +kernel

/-- A host over `base`: its transport takes writes as `acks` says and answers reads as `responses` says. -/
def host (acks : List Bool) (responses : List (Option (Byte × Byte × Byte))) : Driver :=
  { block := base, acks := acks, responses := responses, received := none, log := [], error := none }

/-- The host afterwards, when nothing was refused. -/
def driverOf (o : Host.Outcome Driver Fault Refusal) : Option Driver :=
  match o with
  | .next d => some d
  | .fault _ => none
  | .refused _ => none

/-- A next state found by evaluation is there. -/
theorem next_of_driverOf {o : Host.Outcome Driver Fault Refusal} {p : Driver → Bool} (h : (driverOf o).any p = true) :
    ∃ t, o = .next t ∧ p t = true := by
  cases o with
  | next t => exact ⟨t, rfl, h⟩
  | fault f => cases h
  | refused r => cases h

/-- P1: what is sent, with the erase failing in the transport (E4: the write is tried all the same). -/
theorem test_eeprom_write : (match (host [false, true] []).eepromWrite 0x25 0xB7F4 with
      | .next r => some (r.driver.log, r.erase, r.write)
      | _ => none) =
    some ([.sent [0x25, 0x00, 0x00, 0x43] false, .waited 5, .sent [0x25, 0xF4, 0xB7, 0x0F] true, .waited 5],
      some .transport, none) := by decide +kernel

/-- R109: a register write of a backed register reports both phases when both fail; of another register, the one write. -/
theorem test_register_write_reports : [true, false].map (fun b =>
      match (host [] []).writeRegister (fun _ => b) 0x25 0xB7F4 with
      | .next r => some (r.driver.log.length, r.erase, r.write)
      | _ => none) =
    [some (4, some .transport, some .transport), some (1, none, some .transport)] := by decide +kernel

/-- E3, P2: one transport error, then the stored address; E8: a device with another address. -/
theorem test_start : (driverOf ((host [] [none, some (0x5A, 0x00, 0xE0)]).start true 0x5A 2 0x2E
      (fun a v => decide (v.extractLsb' 0 8 = a)))).map Driver.error = some none ∧
    (driverOf ((host [] [some (0x5B, 0x00, 0xF5)]).start true 0x5A 2 0x2E
      (fun a v => decide (v.extractLsb' 0 8 = a)))).map Driver.error = some (some .validation) := by decide +kernel

/-! ## Witnesses: for each statement with hypotheses, concrete values that meet them

`queued q` is `base` with `q` to be served, then one more read. A command that is said to answer a next state is shown to by
`rfl`. -/

def queued (q : Request) : State := base.take [q, .read 0x02]

theorem witness_ResetInputRestoresTheRegisters : (queued .reset).host.script = .reset :: [.read 0x02] := rfl
theorem witness_ReadPortAnswersEveryIndexWithoutSideEffect :
    (5 ≤ (0x05#8).toNat ∧ 5 ≤ (0xFF#8).toNat) ∧ (queued (.read 0x05)).host.script = .read 0x05 :: [.read 0x02] := by decide
theorem witness_ReadPortShowsEveryRegister : ∀ idx : Byte, busy.read idx = busy.read idx := fun _ => rfl
theorem witness_StepRunsTheDecodedCommand :
    (queued (.command 0x100000000000005B)).host.script = .command 0x100000000000005B :: [.read 0x02] ∧
    decode 0x100000000000005B = .ok (.setAddr 0x5B) := ⟨rfl, by decide⟩
theorem witness_RequestsAreServedInOrder :
    (∃ t, step (queued (.read 0x01)) = .next t) ∧ (∃ t, step (queued .reset) = .next t) ∧ ∃ t, step base = .next t :=
  ⟨⟨_, rfl⟩, ⟨_, rfl⟩, _, rfl⟩
theorem witness_OnlyAnUnserialisedCallerIsRefused :
    (∀ rest, (queued .reset).host.script ≠ .unserialised :: rest) ∧
    (queued .unserialised).host.script = .unserialised :: [.read 0x02] ∧ base.host.script = [] :=
  ⟨(fun _ h => by cases h), rfl, rfl⟩
theorem witness_RegistersChangeOnlyByCommandOrReset :
    (∃ t, step (queued (.command 0x010000000000005A)) = .next t ∧ t.regs ≠ base.regs) ∧
    ∃ t, step ((withRegs busy).take [.reset]) = .next t ∧ t.regs ≠ busy :=
  ⟨⟨_, rfl, by decide⟩, _, rfl, by decide⟩
theorem witness_ParametersNeverChange : ∃ t, Sys2Proof.core.run 2 (queued .reset) = .next t := ⟨_, rfl⟩
theorem witness_OperandsStandWhereTheFormatsPutThem :
    decode 0x0300000000000001 = .ok (.crcCompare 0x01) ∧ decode 0x1100000000FF8001 = .ok (.frameWrite 0xFF 0x8001) ∧
    decode 0x13000000FF8001FE = .ok (.checkRead 0xFF 0x80 0x01 0xFE) := by decide
theorem witness_EveryWordIsOneRowsCommandOrIllegal :
    ∃ r ∈ opcodeTable, (0x12000000000000FF : Word) &&& r.mask = r.pattern := by decide
/-- No clause's hypothesis is empty: an unassigned opcode, each reserved field, and a legal word. -/
theorem witness_IllegalWordOnlySetsTheCode :
    (0x0400000000000000#64).extractLsb' 56 8 ∉ [0x01#8, 0x02#8, 0x03#8, 0x10#8, 0x11#8, 0x12#8, 0x13#8] ∧
    (0x1300000100000000#64).extractLsb' 32 24 ≠ 0 ∧ (0x0200000000000100#64).extractLsb' 8 24 ≠ 0 ∧
    (0x1100000001250000#64).extractLsb' 24 8 ≠ 0 ∧
    ((0x0000000000000000#64).extractLsb' 56 8 ∉ [0x01#8, 0x02#8, 0x03#8, 0x10#8, 0x11#8, 0x12#8, 0x13#8]) ∧
    (0x1100000000FFFFFF#64).extractLsb' 56 8 = 0x11#8 ∧ (0x1100000000FFFFFF#64).extractLsb' 32 24 = 0 ∧
    (0x1100000000FFFFFF#64).extractLsb' 24 8 = 0 := by decide
theorem witness_EncodeOfDecodeIsTheWord : decode 0x12000000000000FF = .ok (.frameRead 0xFF) := by decide
theorem witness_OneCorruptedByteChangesTheCrc : (0x5A : Byte) ≠ 0x5B := by decide

/-- A word with a reserved bit set is of no operand's form: the hypothesis of the last clause of each command's statement. -/
theorem reserved_bit_no_formatB (op b : Byte) (w : Word) (hw : w.getLsbD 8 = true) : w ≠ op ++ 0#48 ++ b := by
  rintro rfl
  simp only [BitVec.getLsbD_append, BitVec.getLsbD_zero] at hw
  simp at hw
theorem witness_commands_illegal_word :
    ((0x0100000000000100#64).extractLsb' 56 8 = 0x01#8 ∧ ∀ b : Byte, 0x0100000000000100#64 ≠ 0x01#8 ++ 0#48 ++ b) ∧
    ((0x0200000000000100#64).extractLsb' 56 8 = 0x02#8 ∧ ∀ b : Byte, 0x0200000000000100#64 ≠ 0x02#8 ++ 0#48 ++ b) ∧
    ((0x0300000000000100#64).extractLsb' 56 8 = 0x03#8 ∧ ∀ b : Byte, 0x0300000000000100#64 ≠ 0x03#8 ++ 0#48 ++ b) ∧
    ((0x1000000000000100#64).extractLsb' 56 8 = 0x10#8 ∧ ∀ b : Byte, 0x1000000000000100#64 ≠ 0x10#8 ++ 0#48 ++ b) ∧
    ((0x1200000000000100#64).extractLsb' 56 8 = 0x12#8 ∧ ∀ b : Byte, 0x1200000000000100#64 ≠ 0x12#8 ++ 0#48 ++ b) :=
  ⟨⟨by decide, fun b => reserved_bit_no_formatB _ b _ (by decide)⟩, ⟨by decide, fun b => reserved_bit_no_formatB _ b _ (by decide)⟩,
   ⟨by decide, fun b => reserved_bit_no_formatB _ b _ (by decide)⟩, ⟨by decide, fun b => reserved_bit_no_formatB _ b _ (by decide)⟩,
   ⟨by decide, fun b => reserved_bit_no_formatB _ b _ (by decide)⟩⟩
theorem witness_framer_illegal_word :
    ((0x1100000001000000#64).extractLsb' 56 8 = 0x11#8 ∧
      ∀ (r : Byte) (d : Data), 0x1100000001000000#64 ≠ 0x11#8 ++ 0#32 ++ r ++ d) ∧
    ((0x1300000100000000#64).extractLsb' 56 8 = 0x13#8 ∧
      ∀ r l h p : Byte, 0x1300000100000000#64 ≠ 0x13#8 ++ 0#24 ++ r ++ l ++ h ++ p) := by
  refine ⟨⟨by decide, fun r d h => ?_⟩, by decide, fun r l h p e => ?_⟩
  · have := congrArg (fun v : Word => v.getLsbD 24) h
    simp only [BitVec.getLsbD_append, BitVec.getLsbD_zero] at this
    simp at this
  · have := congrArg (fun v : Word => v.getLsbD 32) e
    simp only [BitVec.getLsbD_append, BitVec.getLsbD_zero] at this
    simp at this

theorem witness_CrcCompareReportsEquality : (withRegs busy).regs.crc = 0xF4 ∧ (withRegs busy).regs.crc ≠ 0xF5 := by decide

/-- The address at each edge: the last in range, the first above it, and a reserved one. -/
theorem witness_SetAddrTakesOrRefusesTheAddress :
    ((0x7F#8).toNat ≤ 0x7F ∧ base.params.isReserved ((0x7F#8).extractLsb' 0 7) = false) ∧ 0x7F < (0x80#8).toNat ∧
    ((0x00#8).toNat ≤ 0x7F ∧ base.params.isReserved ((0x00#8).extractLsb' 0 7) = true) := by decide

theorem witness_FrameWriteBuildsOrRefusesTheFrame :
    base.params.isProtected 0x25 = false ∧ base.params.isProtected 0x2F = true := by decide
theorem witness_CheckReadAcceptsOnlyTheMatchingPec :
    rpec base.regs.sa 0x07 0xD2 0x3A = 0x30 ∧ rpec base.regs.sa 0x07 0xD2 0x3A ≠ 0x31 := by decide +kernel
theorem witness_FramerPecIgnoresTheOldCrc :
    base.params.isProtected 0x25 = false ∧ (∃ t, exec (.frameWrite 0x25 0xB7F4) base = .next t) ∧
    ∃ t, exec (.checkRead 0x07 0xD2 0x3A 0x30) base = .next t := ⟨by decide, ⟨_, rfl⟩, _, rfl⟩
theorem witness_CorruptedResponseIsRefused :
    (0x06#8 ≠ 0x07#8 ∧ 0xD3#8 ≠ 0xD2#8 ∧ 0xBA#8 ≠ 0x3A#8) ∧
    (∃ t, exec (.checkRead 0x06 0xD2 0x3A (rpec base.regs.sa 0x07 0xD2 0x3A)) base = .next t) ∧
    (∃ t, exec (.checkRead 0x07 0xD3 0x3A (rpec base.regs.sa 0x07 0xD2 0x3A)) base = .next t) ∧
    ∃ t, exec (.checkRead 0x07 0xD2 0xBA (rpec base.regs.sa 0x07 0xD2 0x3A)) base = .next t :=
  ⟨by decide, ⟨_, rfl⟩, ⟨_, rfl⟩, _, rfl⟩
theorem witness_FramesRoundTrip :
    base.params.isProtected 0x25 = false ∧ ∃ t, exec (.frameWrite 0x25 0xB7F4) base = .next t := ⟨by decide, _, rfl⟩

/-- Every command, and an illegal word, answers a next state, and the illegal word is one. -/
theorem witness_CrcHasTheStatedWriters :
    ([Instr.crcLoad 1, .crcUpdate 1, .crcCompare 1, .setAddr 1, .frameWrite 0x2F 1, .frameWrite 1 1, .frameRead 1,
      .checkRead 1 1 1 1].all fun i => (nextOf (exec i base)).isSome) = true ∧
    decode 0x0400000000000000 = .error .unassignedOpcode ∧ ∃ t, commandPort 0x0400000000000000 base = .next t :=
  ⟨rfl, by decide, _, rfl⟩
theorem witness_SlaveAddressIsWrittenOnlyBySetAddr :
    (∃ t, commandPort 0x100000000000005B base = .next t ∧ t.regs.sa ≠ base.regs.sa) ∧
    base.params.isReserved 0x7F = false ∧ base.params.isProtected 0x25 = false ∧
    (∃ t, exec (.frameWrite 0x25 0xB7F4) base = .next t) ∧ ∃ t, exec (.checkRead 0x07 0xD2 0x3A 0x31) base = .next t :=
  ⟨⟨_, rfl, by decide⟩, by decide, by decide, ⟨_, rfl⟩, _, rfl⟩
theorem witness_StatusFieldsAndTheirWriters :
    (∃ t, exec (.frameWrite 0x2F 0x1234) base = .next t) ∧ (∃ t, exec (.checkRead 0x07 0xD2 0x3A 0x30) base = .next t) ∧
    (∃ t, commandPort 0x1400000000000000 base = .next t) ∧ decode 0x1400000000000000 = .error .unassignedOpcode :=
  ⟨⟨_, rfl⟩, ⟨_, rfl⟩, ⟨_, rfl⟩, by decide⟩
/-- Each of the five codes is left by some word: P4 and V6. -/
theorem witness_EachResultCodeHasItsCause :
    [0x0300000000000000, 0x0300000000000001, 0x11000000002F1234, 0x1000000000000080, 0x0000000000000000].map
      (fun w => (nextRegs (commandPort w base)).map Regs.code) = [some 0, some 1, some 2, some 3, some 4] := by decide +kernel
/-- Each kind of failure, so that the code is not zero: CRC_COMPARE, SET_ADDR, FRAME_WRITE, CHECK_READ, an illegal word. -/
theorem witness_FailedCommandWritesOnlyWhatItsRuleLists :
    ([0x0300000000000001, 0x1000000000000080, 0x11000000002F1234, 0x1300000007D23A31, 0x0000000000000000].all
      fun w => (nextRegs (commandPort w base)).any fun r => r.code != 0) = true := by decide +kernel
theorem witness_NoCommandReadsStatusOrFrameOrData :
    base.regs ≠ { busy with crc := 0x00 } ∧ base.regs.crc = (withRegs { busy with crc := 0x00 }).regs.crc ∧
    base.regs.sa = (withRegs { busy with crc := 0x00 }).regs.sa ∧ base.params = (withRegs busy).params ∧
    (∃ t, commandPort 0x1300000007D23A30 base = .next t) ∧
    ∃ t, commandPort 0x1300000007D23A30 (withRegs { busy with crc := 0x00 }) = .next t :=
  ⟨by decide, rfl, rfl, rfl, ⟨_, rfl⟩, _, rfl⟩
theorem witness_TransmitFrameHoldsTheBytesInOrder :
    (Regs.reset.txlen = 0 ∧ ({ busy with txlen := 1 } : Regs).txlen = 1 ∧ busy.txlen = 4) ∧
    base.params.isProtected 0x25 = false ∧ base.params.isProtected 0x2F = true ∧
    (∃ t, commandPort 0x110000000025B7F4 base = .next t ∧ t.regs.txf ≠ base.regs.txf) ∧
    ∃ t, commandPort 0x1200000000000007 base = .next t ∧ t.regs.txf ≠ base.regs.txf :=
  ⟨by decide, by decide, by decide, ⟨_, rfl, by decide +kernel⟩, _, rfl, by decide +kernel⟩
theorem witness_ReadDataIsWrittenOnlyByAMatchingCheck :
    (∃ t, exec (.checkRead 0x07 0xD2 0x3A 0x30) base = .next t) ∧
    (∃ t, exec (.checkRead 0x07 0xD2 0x3A 0x31) base = .next t) ∧ rpec base.regs.sa 0x07 0xD2 0x3A ≠ 0x31 ∧
    (∃ t, commandPort 0x1400000000000000 base = .next t) ∧ ∃ e, decode 0x1400000000000000 = .error e :=
  ⟨⟨_, rfl⟩, ⟨_, rfl⟩, by decide +kernel, ⟨_, rfl⟩, .unassignedOpcode, by decide⟩

/-- A safe state that is not the reset state: the erase frame of P1 stands valid in it, and a step is taken. -/
def framed : Regs := { Regs.reset with crc := 0x43, txf := 0x43000025, txlen := 4 }
theorem framed_safe : framed.Safe base.params where
  code_legal := by decide
  txlen_legal := .inr (.inr rfl)
  read_frame h := absurd h (by decide)
  write_allowed _ := by decide
  write_pec _ := ⟨0x5A, by decide +kernel⟩
  refused_no_frame h := absurd h (by decide)
theorem witness_EveryStepKeepsTheBlockSafe :
    ((withRegs framed).take [.command 0x11000000002F1234]).Safe ∧
    ∃ t, step ((withRegs framed).take [.command 0x11000000002F1234]) = .next t := ⟨framed_safe, _, rfl⟩

theorem witness_AssemblerNeverTruncates :
    (Written.wellFormed ⟨.frameWrite, [0xFF, 0xFFFF]⟩ = true ∧ assemble ⟨.frameWrite, [0xFF, 0xFFFF]⟩ = .ok (.frameWrite 0xFF 0xFFFF)) ∧
    Written.wellFormed ⟨.frameWrite, [0x100, 0xFFFF]⟩ = false := ⟨⟨by decide, rfl⟩, by decide⟩
theorem witness_EepromWriteErasesThenWrites : (host [true, true] []).block.params.isProtected 0x25 = false := by decide
theorem witness_EepromWriteOfProtectedRegisterSendsNothing :
    (host [true, true] []).block.params.isProtected 0x2F = true := by decide
/-- A host that sends one write frame and then reads, both with the four-byte frame: the block is safe, the items are performed,
and both events are in the log. -/
theorem witness_NoProtectedWriteReachesTheTransport :
    ({ host [true] [] with block := withRegs framed } : Driver).block.Safe ∧
    ∃ e, ({ host [true] [] with block := withRegs framed } : Driver).performAll
        (writeWordItems 0x25 0xB7F4 ++ [.host .readTransaction]) = .next e ∧
      .sent [0x25, 0xF4, 0xB7, 0x0F] true ∈ e.log ∧ .received [0x25, 0xF4, 0xB7, 0x0F] none ∈ e.log := ⟨framed_safe, _, rfl, by decide +kernel, by decide +kernel⟩
/-- The last attempt that is allowed, and the cap met just before a response. -/
theorem witness_ReadIsRetriedOnlyOnTransportError :
    (1 < 2 ∧ (host [] [none, some (0xD2, 0x3A, 0x31)]).responses = List.replicate 1 none ++ some (0xD2, 0x3A, 0x31) :: []) ∧
    (host [] [none, none, some (0xD2, 0x3A, 0x30)]).responses = List.replicate 2 none ++ [some (0xD2, 0x3A, 0x30)] :=
  ⟨⟨by decide, rfl⟩, rfl⟩
theorem witness_ReadGivesOnlyAValidatedValue :
    ∃ t, (host [] [some (0xD2, 0x3A, 0x30)]).readWord 1 0x07 = .next t ∧ (t.value.toOption == some 0x3AD2) = true :=
  next_of_driverOf (by decide +kernel)
/-- A start that succeeds, and one whose device holds another address (E3, E8). -/
theorem witness_StartSucceedsOnlyOnTheStoredAddress :
    (∃ t, (host [] [some (0x5A, 0x00, 0xE0)]).start true 0x5A 1 0x2E (fun a v => decide (v.extractLsb' 0 8 = a)) = .next t ∧
      t.error.isNone = true) ∧
    (0 < 1 ∧ refusesAddr base.params 0x5A = false ∧
      (host [] [some (0x5B, 0x00, 0xF5)]).responses =
        some (0x5B, 0x00, rpec ((0x5A#8).extractLsb' 0 7) 0x2E 0x5B 0x00) :: [] ∧
      decide ((0x00#8 ++ 0x5B#8 : Data).extractLsb' 0 8 = 0x5A#8) = false) :=
  ⟨next_of_driverOf (by decide +kernel), by decide, by decide, by decide +kernel, by decide⟩
/-- A register that may be written and is backed, one that is not backed, and a protected one. -/
theorem witness_RegisterWriteReportsEachPhase :
    (host [false, true] []).block.params.isProtected 0x25 = false ∧ (host [] []).block.params.isProtected 0x2F = true ∧
    (fun r : Byte => r == 0x25) 0x25 = true ∧ (host [] []).block.params.isProtected 0x24 = false ∧
    (fun r : Byte => r == 0x25) 0x24 = false := by decide

end Sys2Proof.Tests
end

/-! # What a command and a command word can do, as relations

`Effect s i t` has one constructor per outcome of a command; `Response s w t` adds the illegal word. Both are the
model's `exec` and `commandPort`, by `exec_iff_effect` and `commandPort_iff_response`. -/

namespace Sys2Proof.Machine

/-- The outcomes of a command `i` in `s`, one constructor per branch of its rule (R85 to R87, R104 to R107). -/
inductive Effect (s : State) : Instr → State → Prop
  | loaded (b : Byte) : Effect s (.crcLoad b) (s.setCrc b).finish
  | updated (b : Byte) : Effect s (.crcUpdate b) (s.setCrc (crc8 s.regs.crc b)).finish
  | equal {b : Byte} (h : s.regs.crc = b) : Effect s (.crcCompare b) s.finish
  | differs {b : Byte} (h : s.regs.crc ≠ b) : Effect s (.crcCompare b) (s.fail codeChecksum)
  | addrSet {b : Byte} (h : refusesAddr s.params b = false) : Effect s (.setAddr b) (s.setSa (addrOf b)).finish
  | addrRefused {b : Byte} (h : refusesAddr s.params b = true) : Effect s (.setAddr b) (s.fail codeRange)
  | frameBuilt {reg : Byte} (data : Data) (h : s.params.isProtected reg = false) :
      Effect s (.frameWrite reg data) (s.frameWrite reg data).finish
  | frameRefused {reg : Byte} (data : Data) (h : s.params.isProtected reg = true) :
      Effect s (.frameWrite reg data) ((s.setTxlen 0).fail codeProtected)
  | readFramed (reg : Byte) : Effect s (.frameRead reg) ((s.setTxf (packRead reg)).setTxlen 1).finish
  | accepted {reg lo hi pec : Byte} (h : rpec s.regs.sa reg lo hi = pec) :
      Effect s (.checkRead reg lo hi pec)
        (((s.setCrc (rpec s.regs.sa reg lo hi)).setRdata (packData lo hi)).setRdv true).finish
  | rejected {reg lo hi pec : Byte} (h : rpec s.regs.sa reg lo hi ≠ pec) :
      Effect s (.checkRead reg lo hi pec)
        (((s.setCrc (rpec s.regs.sa reg lo hi)).setRdv false).fail codeChecksum)

/-- Every outcome is the one `exec` computes. -/
theorem Effect.exec_eq {s t : State} {i : Instr} (e : Effect s i t) : exec i s = .next t := by
  cases e with
  | loaded | updated | readFramed => rfl
  | equal h | differs h | accepted h | rejected h =>
    simp only [exec, execCrcCompare, execCheckRead, h, if_true, if_false]
  | addrSet h | addrRefused h | frameBuilt _ h | frameRefused _ h =>
    simp only [exec, execSetAddr, execFrameWrite, h, if_true, Bool.false_eq_true, if_false]

/-- Every command has an outcome in every state. -/
theorem exists_effect (s : State) (i : Instr) : ∃ t, Effect s i t := by
  cases i with
  | crcLoad b => exact ⟨_, .loaded b⟩
  | crcUpdate b => exact ⟨_, .updated b⟩
  | frameRead reg => exact ⟨_, .readFramed reg⟩
  | crcCompare b =>
    by_cases h : s.regs.crc = b
    · exact ⟨_, .equal h⟩
    · exact ⟨_, .differs h⟩
  | setAddr b =>
    cases h : refusesAddr s.params b with
    | false => exact ⟨_, .addrSet h⟩
    | true => exact ⟨_, .addrRefused h⟩
  | frameWrite reg data =>
    cases h : s.params.isProtected reg with
    | false => exact ⟨_, .frameBuilt data h⟩
    | true => exact ⟨_, .frameRefused data h⟩
  | checkRead reg lo hi pec =>
    by_cases h : rpec s.regs.sa reg lo hi = pec
    · exact ⟨_, .accepted h⟩
    · exact ⟨_, .rejected h⟩

/-- `exec` answers exactly the outcomes listed. -/
theorem exec_iff_effect {s t : State} {i : Instr} : exec i s = .next t ↔ Effect s i t := by
  refine ⟨fun h => ?_, Effect.exec_eq⟩
  obtain ⟨u, hu⟩ := exists_effect s i
  cases hu.exec_eq.symm.trans h
  exact hu

/-- The outcomes of a command word: `ILLEGAL` (R64), or an outcome of the command it decodes to. -/
inductive Response (s : State) (w : Word) : State → Prop
  | illegal {e : Illegal} (h : decode w = .error e) : Response s w s.illegal
  | command {i : Instr} {t : State} (h : decode w = .ok i) (e : Effect s i t) : Response s w t

/-- The command port answers exactly the outcomes listed. -/
theorem commandPort_iff_response {s t : State} {w : Word} : commandPort w s = .next t ↔ Response s w t := by
  constructor
  · intro h
    cases hd : decode w with
    | error e =>
      cases (commandPort_error hd s).symm.trans h
      exact .illegal hd
    | ok i => exact .command hd (exec_iff_effect.1 ((commandPort_ok hd s).symm.trans h))
  · intro h
    cases h with
    | illegal hd => exact commandPort_error hd s
    | command hd e => exact (commandPort_ok hd s).trans e.exec_eq

end Sys2Proof.Machine

/-! # The legal words (R64) -/

namespace Sys2Proof

/-- A format B argument is legal exactly when its reserved bits are zero (R61, R64). -/
theorem formatB_ok_iff (arg : BitVec 32) (mk : Byte → Instr) :
    (∃ i, formatB arg mk = .ok i) ↔ arg.extractLsb' 8 24 = 0#24 := by
  unfold formatB
  split <;> simp [*]

/-- A format W argument is legal exactly when its reserved bits are zero (R61, R64). -/
theorem formatW_ok_iff (arg : BitVec 32) (mk : Byte → Data → Instr) :
    (∃ i, formatW arg mk = .ok i) ↔ arg.extractLsb' 24 8 = 0#8 := by
  unfold formatW
  split <;> simp [*]

/-- A word decodes to what its argument reads as, when its reserved field is zero (R64, R65). -/
theorem decode_eq_ok_iff {w : Word} {i : Instr} :
    decode w = .ok i ↔ rsvField w = 0#24 ∧ readArgument (opField w) (argField w) = some (.ok i) := by
  unfold decode
  cases readArgument (opField w) (argField w) with
  | none => simp
  | some r => by_cases hr : rsvField w = 0#24 <;> simp [hr]

/-- The arguments that read as a command: one disjunct per format of R61, with the opcodes of R63 that use it. -/
theorem readArgument_ok_iff (op : Byte) (arg : BitVec 32) :
    (∃ i, readArgument op arg = some (.ok i)) ↔
      op ∈ [0x01#8, 0x02#8, 0x03#8, 0x10#8, 0x12#8] ∧ arg.extractLsb' 8 24 = 0#24 ∨
        op = 0x11#8 ∧ arg.extractLsb' 24 8 = 0#8 ∨ op = 0x13#8 := by
  unfold readArgument
  split_ifs <;> simp_all [formatB_ok_iff, formatW_ok_iff, formatR]

/-- The legal words: an assigned opcode, and zero in `RSV` and in all reserved bits of its format (R61, R63, R64). -/
theorem decode_ok_iff (w : Word) :
    (∃ i, decode w = .ok i) ↔ rsvField w = 0#24 ∧
      (opField w ∈ [0x01#8, 0x02#8, 0x03#8, 0x10#8, 0x12#8] ∧ w.extractLsb' 8 24 = 0#24 ∨
        opField w = 0x11#8 ∧ w.extractLsb' 24 8 = 0#8 ∨ opField w = 0x13#8) := by
  simp only [decode_eq_ok_iff, exists_and_left, readArgument_ok_iff, argField,
    BitVec.extractLsb'_extractLsb'_of_le (show 8 + 24 ≤ 32 by decide),
    BitVec.extractLsb'_extractLsb'_of_le (show 24 + 8 ≤ 32 by decide)]

end Sys2Proof

/-! # The registers through the read port: fields above a register's width are zero (R41) -/

namespace Sys2Proof.Machine

/-- A value has no bits above its width. -/
theorem extract_above_width {n : Nat} (x : BitVec n) (k : Nat) : x.extractLsb' n k = 0#k := by
  ext i hi
  simp

/-- A register of at most 32 bits is read whole in the port's low bits, with zeros above (R41). -/
theorem port_fields {n : Nat} (x : BitVec n) (h : n ≤ 32) :
    (x.setWidth 32).extractLsb' 0 n = x ∧ (x.setWidth 32).extractLsb' n (32 - n) = 0#(32 - n) := by
  rw [BitVec.extractLsb'_setWidth_of_le (by omega), BitVec.extractLsb'_setWidth_of_le (by omega)]
  exact ⟨BitVec.extractLsb'_eq_self, extract_above_width x _⟩

/-- `STATUS` has zeros above `TXLEN` (R25). -/
theorem extract_status_high (r : Regs) : r.status.extractLsb' 7 25 = 0#25 := by
  unfold Regs.status
  rw [extract_append_high _ _ (by decide), extract_append_high _ _ (by decide), extract_append_high _ _ (by decide)]
  exact BitVec.extractLsb'_eq_self

/-! # Who writes each register, and with which code a command ends -/

/-- Only an accepted SET_ADDR changes `SA` (R24). -/
theorem Effect.sa_changed {s t : State} {i : Instr} (e : Effect s i t) (h : t.regs.sa ≠ s.regs.sa) :
    ∃ b, i = .setAddr b ∧ t = (s.setSa (addrOf b)).finish := by
  cases e with
  | addrSet _ => exact ⟨_, rfl, rfl⟩
  | _ => exact absurd rfl h

/-- Only a frame that is built changes `TXF` (R27). -/
theorem Effect.txf_changed {s t : State} {i : Instr} (e : Effect s i t) (h : t.regs.txf ≠ s.regs.txf) :
    (∃ reg data, i = .frameWrite reg data ∧ t.regs.code = codeOk) ∨ ∃ reg, i = .frameRead reg := by
  cases e with
  | frameBuilt data _ => exact .inl ⟨_, data, rfl, rfl⟩
  | readFramed reg => exact .inr ⟨reg, rfl⟩
  | _ => exact absurd rfl h

/-- No command reads the code that stood before (R25). -/
theorem exec_setCode (i : Instr) (s : State) (c : BitVec 3) : exec i (s.setCode c) = exec i s := by
  cases i <;> rfl

/-- No word reads the code that stood before (R25). -/
theorem commandPort_setCode (w : Word) (s : State) (c : BitVec 3) :
    commandPort w (s.setCode c) = commandPort w s := by
  cases h : decode w with
  | error e => rw [commandPort_error h, commandPort_error h]; rfl
  | ok i => rw [commandPort_ok h, commandPort_ok h, exec_setCode]

/-- The only answer to an illegal word (R64). -/
theorem commandPort_error_eq {w : Word} {e : Illegal} {s t : State} (hd : decode w = .error e)
    (h : commandPort w s = .next t) : t = s.illegal := by
  cases (commandPort_error hd s).symm.trans h
  rfl

/-- SET_ADDR refuses a byte above 0x7F and a reserved address (R104). -/
theorem refusesAddr_iff (p : Params) (b : Byte) :
    refusesAddr p b = true ↔ 0x7F < b.toNat ∨ p.isReserved (b.extractLsb' 0 7) = true := by
  have hmsb : b.getLsbD 7 = true ↔ 0x7F < b.toNat := by
    have : b.getLsbD 7 = b.msb := rfl
    rw [this, BitVec.msb_eq_decide, decide_eq_true_iff]
    rfl
  rw [← hmsb, refusesAddr, Bool.or_eq_true]
  rfl

/-- A 7-bit address in SET_ADDR's field is the address it sets (R104). -/
@[simp] theorem addrOf_setWidth (a : Addr) : addrOf (a.setWidth 8) = a :=
  (BitVec.extractLsb'_setWidth_of_le (by decide)).trans BitVec.extractLsb'_eq_self

/-- Only a reserved address among the 7-bit ones is refused (R104). -/
theorem refusesAddr_setWidth (p : Params) (a : Addr) : refusesAddr p (a.setWidth 8) = p.isReserved a := by
  have h : (a.setWidth 8).getLsbD 7 = false := by
    rw [BitVec.getLsbD_setWidth, BitVec.getLsbD_of_ge a 7 (le_refl 7), Bool.and_false]
  rw [refusesAddr, h, Bool.false_or, addrOf_setWidth]

section
variable {s t : State} {i : Instr} (e : Effect s i t)
include e

/-- `CHECKSUM` is a PEC or a CRC that differs (R26, R132). -/
theorem Effect.code_checksum_iff : t.regs.code = codeChecksum ↔
    (∃ b, i = .crcCompare b ∧ s.regs.crc ≠ b) ∨
      ∃ reg lo hi pec, i = .checkRead reg lo hi pec ∧ rpec s.regs.sa reg lo hi ≠ pec := by
  cases e with
  | equal h | differs h | accepted h | rejected h => simp [codeOk, codeChecksum, h]
  | _ => simp [codeOk, codeChecksum, codeProtected, codeRange]

/-- `PROTECTED` is FRAME_WRITE of a protected register (R26, R133). -/
theorem Effect.code_protected_iff : t.regs.code = codeProtected ↔
    ∃ reg data, i = .frameWrite reg data ∧ s.params.isProtected reg = true := by
  cases e with
  | frameBuilt _ h | frameRefused _ h => simp [codeOk, codeProtected, h]
  | _ => simp [codeOk, codeChecksum, codeProtected, codeRange]

/-- `RANGE` is SET_ADDR of an address it refuses (R26, R134). -/
theorem Effect.code_range_iff : t.regs.code = codeRange ↔
    ∃ b, i = .setAddr b ∧ refusesAddr s.params b = true := by
  cases e with
  | addrSet h | addrRefused h => simp [codeOk, codeRange, h]
  | _ => simp [codeOk, codeChecksum, codeProtected, codeRange]

/-- A command ends with a code from `OK` to `RANGE` (R26). -/
theorem Effect.code_le_range : t.regs.code ≤ codeRange := by
  cases e <;> simp [codeOk, codeChecksum, codeProtected, codeRange]

end

/-! # The statements about the registers and their reset values (10_state.md) -/

/-- Settles O1: each register by computation of `Regs.reset`. -/
theorem resetLeavesTheStatedValues : Obligations.ResetLeavesTheStatedValues :=
  ⟨rfl, rfl, rfl, rfl, rfl, rfl, rfl⟩

/-- Settles O36: the outcomes of a command (`Effect`) one by one; a FRAME_WRITE decides the `if` of its rule. -/
theorem crcHasTheStatedWriters : Obligations.CrcHasTheStatedWriters := by
  refine ⟨Regs.read_crc, fun i s t h => ?_, fun w e s t hd h => ?_, rfl⟩
  · cases exec_iff_effect.1 h with
    | frameBuilt _ hp | frameRefused _ hp => simp [hp]
    | _ => rfl
  · rw [commandPort_error_eq hd h, State.illegal_regs]

/-- Settles O37: of all outcomes only `addrSet` moves `SA`, and no 7-bit address but a reserved one is refused. -/
theorem slaveAddressIsWrittenOnlyBySetAddr : Obligations.SlaveAddressIsWrittenOnlyBySetAddr := by
  refine ⟨fun r => port_fields r.sa (by decide), fun w s t h hne => ?_,
    fun a s ha => ?_, fun s t reg data hp h => ?_, fun s t reg lo hi pec h => ?_, rfl⟩
  · cases commandPort_iff_response.1 h with
    | illegal _ => exact absurd rfl hne
    | command hd e =>
      obtain ⟨b, rfl, rfl⟩ := e.sa_changed hne
      exact ⟨b, hd, rfl, rfl⟩
  · have hr : refusesAddr s.params (a.setWidth 8) = false := (refusesAddr_setWidth _ a).trans ha
    exact ⟨_, (Effect.addrSet hr).exec_eq, addrOf_setWidth a⟩
  · cases exec_iff_effect.1 h with
    | frameBuilt => rfl
    | frameRefused _ hp' => simp [hp] at hp'
  · cases exec_iff_effect.1 h <;> rfl

/-- Settles O38: the fields by `Effect`, and the old code by `commandPort_setCode`, since no word reads it. -/
theorem statusFieldsAndTheirWriters : Obligations.StatusFieldsAndTheirWriters := by
  refine ⟨fun r => ⟨statusCode_status r, statusRdv_status r, statusTxlen_status r, extract_status_high r⟩,
    fun i s t h => ?_, fun w s t h => ⟨fun c => (commandPort_setCode w s c).trans h, ?_⟩, by decide⟩
  · cases exec_iff_effect.1 h with
    | frameBuilt _ hc | frameRefused _ hc | accepted hc | rejected hc => simp [hc]
    | _ => exact ⟨rfl, rfl⟩
  · rintro ⟨e, hd⟩
    rw [commandPort_error_eq hd h]
    exact ⟨rfl, rfl, rfl⟩

/-- Settles O39: codes 0 to 3 come from a decoded command, by its `Effect`; 4 comes only from an illegal word
(`decode_ok_iff`). -/
theorem eachResultCodeHasItsCause : Obligations.EachResultCodeHasItsCause := by
  intro w s t h
  have hlegal := decode_ok_iff w
  cases commandPort_iff_response.1 h with
  | illegal hd =>
    have hn : ¬ ∃ i, decode w = .ok i := by simp [hd]
    refine ⟨?_, ?_, ?_, iff_of_true rfl (mt hlegal.2 hn), le_refl 4⟩ <;> simp [hd, codeIllegal]
  | @command i _ hd e =>
    have hle := e.code_le_range
    refine ⟨?_, ?_, ?_, ?_, ?_⟩
    · simpa [hd, codeChecksum] using e.code_checksum_iff
    · simpa [hd, codeProtected] using e.code_protected_iff
    · simpa [hd, codeRange, refusesAddr_iff] using e.code_range_iff
    · refine iff_of_false ?_ (not_not.2 (hlegal.1 ⟨i, hd⟩))
      intro hc
      rw [hc] at hle
      exact absurd hle (by decide)
    · exact le_trans (BitVec.le_def.1 hle) (by decide)

/-- Settles O42: the frames by `TXLEN` and the bytes of `packWrite` and `packRead`, the writers by `Effect.txf_changed`. -/
theorem transmitFrameHoldsTheBytesInOrder : Obligations.TransmitFrameHoldsTheBytesInOrder := by
  refine ⟨fun r => ⟨rfl, frame_of_txlen_0 r, frame_of_txlen_1 r, frame_of_txlen_4 r⟩, fun s reg data hp => ?_,
    fun s reg => ?_, fun s reg data hp => ?_, fun w s t h hne => ?_, rfl⟩
  · refine ⟨_, (Effect.frameBuilt data hp).exec_eq, rfl, ?_, rfl⟩
    rw [frame_of_txlen_4 _ rfl]
    simp [dataLo, dataHi]
  · refine ⟨_, (Effect.readFramed reg).exec_eq, ?_, rfl⟩
    rw [frame_of_txlen_1 _ rfl]
    simp
  · exact ⟨_, (Effect.frameRefused data hp).exec_eq, rfl, rfl, frame_of_txlen_0 _ rfl⟩
  · cases commandPort_iff_response.1 h with
    | illegal _ => exact absurd rfl hne
    | command hd e =>
      obtain ⟨reg, data, rfl, hc⟩ | ⟨reg, rfl⟩ := e.txf_changed hne
      · exact .inl ⟨reg, data, hd, hc⟩
      · exact .inr ⟨reg, hd⟩

/-- Settles O43: of all outcomes only `accepted` writes `RDATA`. -/
theorem readDataIsWrittenOnlyByAMatchingCheck : Obligations.ReadDataIsWrittenOnlyByAMatchingCheck := by
  refine ⟨fun r => port_fields r.rdata (by decide), fun i s t h => ?_,
    fun w s t h => ?_, fun s t reg lo hi pec h hne => ?_, rfl⟩
  · cases exec_iff_effect.1 h with
    | accepted hc | rejected hc => simp [hc, packData]
    | _ => rfl
  · rintro ⟨e, hd⟩
    rw [commandPort_error_eq hd h, State.illegal_regs]
  · cases exec_iff_effect.1 h with
    | accepted heq => exact absurd heq hne
    | rejected => rfl

end Sys2Proof.Machine

/-! # The legal words are the encoded commands (30_encoding.md)

`decode_eq_ok_iff_encode` is the round trip in one equivalence, and `eq_encode_of_covered` says the same of the rows of the
opcode map. -/

namespace Sys2Proof

/-- A format B argument that is accepted is zeros above its byte (R61). -/
theorem formatB_eq_ok {arg : BitVec 32} {mk : Byte → Instr} {i : Instr} (h : formatB arg mk = .ok i) :
    ∃ b, arg = 0#24 ++ b ∧ mk b = i := by
  unfold formatB at h
  split at h
  next hz => exact ⟨_, by rw [← hz, formatB_append], Except.ok.inj h⟩
  next => cases h

/-- A format W argument that is accepted is zeros above the register byte and the data (R61). -/
theorem formatW_eq_ok {arg : BitVec 32} {mk : Byte → Data → Instr} {i : Instr} (h : formatW arg mk = .ok i) :
    ∃ reg data, arg = 0#8 ++ reg ++ data ∧ mk reg data = i := by
  unfold formatW at h
  split at h
  next hz => exact ⟨_, _, by rw [← hz, formatW_append], Except.ok.inj h⟩
  next => cases h

/-- A format R argument is its four bytes, and all are accepted (R61). -/
theorem formatR_eq_ok {arg : BitVec 32} {mk : Byte → Byte → Byte → Byte → Instr} {i : Instr}
    (h : formatR arg mk = .ok i) : ∃ reg lo hi pec, arg = reg ++ lo ++ hi ++ pec ∧ mk reg lo hi pec = i :=
  ⟨_, _, _, _, (formatR_append arg).symm, Except.ok.inj h⟩

/-- An opcode and an argument read as a command only if they are that command's (R61, R63). -/
theorem fields_of_readArgument {op : Byte} {arg : BitVec 32} {i : Instr} (h : readArgument op arg = some (.ok i)) :
    op = i.opcode ∧ arg = i.argument := by
  unfold readArgument at h
  split_ifs at h <;> replace h := Option.some.inj h
  -- the fifth opcode is of format W, the seventh of format R, the others of format B
  on_goal 5 =>
    obtain ⟨reg, data, rfl, rfl⟩ := formatW_eq_ok h
    exact ⟨‹_›, rfl⟩
  on_goal 6 =>
    obtain ⟨reg, lo, hi, pec, rfl, rfl⟩ := formatR_eq_ok h
    exact ⟨‹_›, rfl⟩
  all_goals
    obtain ⟨b, rfl, rfl⟩ := formatB_eq_ok h
    exact ⟨‹_›, rfl⟩

/-- A command's own opcode and argument read as that command (R61, R63). -/
@[simp] theorem readArgument_opcode_argument (i : Instr) : readArgument i.opcode i.argument = some (.ok i) := by
  cases i <;> simp [readArgument, Instr.opcode, Instr.argument]

/-- A word decodes to a command exactly when it is the command's encoding (R60 to R65). -/
theorem decode_eq_ok_iff_encode {w : Word} {i : Instr} : decode w = .ok i ↔ w = encode i := by
  rw [decode_eq_ok_iff]
  constructor
  · rintro ⟨hr, ha⟩
    obtain ⟨hop, harg⟩ := fields_of_readArgument ha
    exact word_ext (by rw [hop, opField_encode]) (by rw [hr, rsvField_encode]) (by rw [harg, argField_encode])
  · rintro rfl
    simp

/-- Two commands with one encoding are the same command. -/
theorem encode_injective : Function.Injective encode := fun _ _ h =>
  Except.ok.inj ((decode_eq_ok_iff_encode.2 rfl).symm.trans (decode_eq_ok_iff_encode.2 h))

/-! # The rows of the opcode map (R63) -/

/-- A mask of ones above `k` zeros fixes the bits from `k` up and leaves those below free. -/
theorem eq_append_of_and_highMask {m k : Nat} {w : BitVec (m + k)} {p : BitVec m}
    (h : w &&& (BitVec.allOnes m ++ 0#k) = p ++ 0#k) : w = p ++ w.extractLsb' 0 k := by
  have hw : w.extractLsb' k m ++ w.extractLsb' 0 k = w := BitVec.extractLsb'_append_extractLsb'
  rw [← hw, BitVec.and_append, BitVec.and_allOnes, BitVec.and_zero, BitVec.append_left_inj] at h
  rw [← h, hw]

/-- A word that a format B row covers is the row's opcode, zeros and a byte. -/
theorem eq_of_and_maskB {w : Word} {op : Byte} (h : w &&& 0xFFFFFFFFFFFFFF00#64 = op ++ 0#48 ++ 0#8) :
    w = op ++ 0#24 ++ (0#24 ++ w.extractLsb' 0 8) :=
  (eq_append_of_and_highMask (m := 56) (k := 8) h).trans (word_formatB op _)

/-- A word that a format W row covers is the row's opcode, zeros, a byte and a data word. -/
theorem eq_of_and_maskW {w : Word} {op : Byte} (h : w &&& 0xFFFFFFFFFF000000#64 = op ++ 0#32 ++ 0#24) :
    w = op ++ 0#24 ++ (0#8 ++ w.extractLsb' 16 8 ++ w.extractLsb' 0 16) := by
  have hlow : w.extractLsb' 0 24 = w.extractLsb' 16 8 ++ w.extractLsb' 0 16 :=
    (BitVec.extractLsb'_append_extractLsb'_eq_extractLsb' (len₁ := 16) (len₂ := 8) rfl).symm
  calc w = op ++ 0#32 ++ w.extractLsb' 0 24 := eq_append_of_and_highMask (m := 40) (k := 24) h
    _ = op ++ 0#32 ++ (w.extractLsb' 16 8 ++ w.extractLsb' 0 16) := by rw [hlow]
    _ = op ++ 0#32 ++ w.extractLsb' 16 8 ++ w.extractLsb' 0 16 := BitVec.append_assoc.symm
    _ = _ := word_formatW op _ _

/-- A word that a format R row covers is the row's opcode, zeros and four bytes. -/
theorem eq_of_and_maskR {w : Word} {op : Byte} (h : w &&& 0xFFFFFFFF00000000#64 = op ++ 0#24 ++ 0#32) :
    ∃ reg lo hi pec : Byte, w = op ++ 0#24 ++ (reg ++ lo ++ hi ++ pec) :=
  ⟨_, _, _, _, (eq_append_of_and_highMask (m := 32) (k := 32) h).trans
    (congrArg (op ++ 0#24 ++ ·) (formatR_append (argField w)).symm)⟩

/-- A word that a row covers is the encoding of a command with the row's mnemonic. -/
theorem eq_encode_of_covered {r : Row} (hr : r ∈ opcodeTable) {w : Word} (h : w &&& r.mask = r.pattern) :
    ∃ i : Instr, i.mnemonic = r.mnemonic ∧ w = encode i := by
  simp only [opcodeTable, List.mem_cons, List.not_mem_nil, or_false] at hr
  obtain rfl | rfl | rfl | rfl | rfl | rfl | rfl := hr
  · exact ⟨.crcLoad _, rfl, eq_of_and_maskB (op := 0x01) h⟩
  · exact ⟨.crcUpdate _, rfl, eq_of_and_maskB (op := 0x02) h⟩
  · exact ⟨.crcCompare _, rfl, eq_of_and_maskB (op := 0x03) h⟩
  · exact ⟨.setAddr _, rfl, eq_of_and_maskB (op := 0x10) h⟩
  · exact ⟨.frameWrite _ _, rfl, eq_of_and_maskW (op := 0x11) h⟩
  · exact ⟨.frameRead _, rfl, eq_of_and_maskB (op := 0x12) h⟩
  · obtain ⟨reg, lo, hi, pec, hw⟩ := eq_of_and_maskR (op := 0x13) h
    exact ⟨.checkRead reg lo hi pec, rfl, hw⟩

/-- Every command's encoding is covered by the row that bears its mnemonic. -/
theorem exists_row_covers_encode (i : Instr) : Laws.EncodesInItsRow.Statement i := by
  cases i with
  | crcLoad b => exact Laws.EncodesInItsRow.crcLoad b
  | crcUpdate b => exact Laws.EncodesInItsRow.crcUpdate b
  | crcCompare b => exact Laws.EncodesInItsRow.crcCompare b
  | setAddr b => exact Laws.EncodesInItsRow.setAddr b
  | frameWrite reg data => exact Laws.EncodesInItsRow.frameWrite reg data
  | frameRead reg => exact Laws.EncodesInItsRow.frameRead reg
  | checkRead reg lo hi pec => exact Laws.EncodesInItsRow.checkRead reg lo hi pec

/-- The reserved bits and the byte of a format B argument (R61). -/
theorem fields_formatB (b : Byte) : (0#24 ++ b).extractLsb' 8 24 = 0#24 ∧ b = (0#24 ++ b).extractLsb' 0 8 :=
  ⟨BitVec.extractLsb'_append_eq_left, (extract_append_low _ _).symm⟩

/-- The reserved bits, the register byte and the data of a format W argument (R61). -/
theorem fields_formatW (reg : Byte) (data : Data) :
    (0#8 ++ reg ++ data).extractLsb' 24 8 = 0#8 ∧ reg = (0#8 ++ reg ++ data).extractLsb' 16 8 ∧
      data = (0#8 ++ reg ++ data).extractLsb' 0 16 := by
  refine ⟨?_, ?_, (extract_append_low _ _).symm⟩
  · exact (extract_append_high _ _ (by decide)).trans BitVec.extractLsb'_append_eq_left
  · rw [extract_append_high _ _ (by decide), Nat.sub_self, extract_append_low]

/-- The four bytes of a format R argument (R61). -/
theorem fields_formatR (reg lo hi pec : Byte) :
    reg = (reg ++ lo ++ hi ++ pec).extractLsb' 24 8 ∧ lo = (reg ++ lo ++ hi ++ pec).extractLsb' 16 8 ∧
      hi = (reg ++ lo ++ hi ++ pec).extractLsb' 8 8 ∧ pec = (reg ++ lo ++ hi ++ pec).extractLsb' 0 8 := by
  refine ⟨?_, ?_, ?_, (extract_append_low _ _).symm⟩
  · rw [extract_append_high _ _ (by decide), extract_append_high _ _ (by decide)]
    exact BitVec.extractLsb'_append_eq_left.symm
  · rw [extract_append_high _ _ (by decide), extract_append_high _ _ (by decide), Nat.sub_self, extract_append_low]
  · rw [extract_append_high _ _ (by decide), Nat.sub_self, extract_append_low]

/-- The assigned opcodes by format; no opcode is of two formats (R63). -/
theorem assigned_opcode_iff (op : Byte) :
    (op ∈ [0x01#8, 0x02#8, 0x03#8, 0x10#8, 0x11#8, 0x12#8, 0x13#8] ↔
      op ∈ [0x01#8, 0x02#8, 0x03#8, 0x10#8, 0x12#8] ∨ op = 0x11#8 ∨ op = 0x13#8) ∧
    (op = 0x11#8 → op ∉ [0x01#8, 0x02#8, 0x03#8, 0x10#8, 0x12#8]) ∧
    (op = 0x13#8 → op ∉ [0x01#8, 0x02#8, 0x03#8, 0x10#8, 0x12#8] ∧ op ≠ 0x11#8) := by
  refine ⟨?_, by rintro rfl; decide, by rintro rfl; decide⟩
  simp only [List.mem_cons, List.not_mem_nil, or_false]
  tauto

/-- The legal words as R64 puts it: the opcode is assigned, and `RSV` and its format's reserved bits are zero. -/
theorem legal_iff_decode_ok (w : Word) :
    (opField w ∈ [0x01#8, 0x02#8, 0x03#8, 0x10#8, 0x11#8, 0x12#8, 0x13#8] ∧ rsvField w = 0#24 ∧
      (opField w ∈ [0x01#8, 0x02#8, 0x03#8, 0x10#8, 0x12#8] → w.extractLsb' 8 24 = 0#24) ∧
      (opField w = 0x11#8 → w.extractLsb' 24 8 = 0#8)) ↔ ∃ i, decode w = .ok i := by
  obtain ⟨hassigned, hW, hR⟩ := assigned_opcode_iff (opField w)
  rw [hassigned, decode_ok_iff]
  tauto

/-- A field of an encoded command that lies in `ARG` is a field of the command's argument (R60). -/
theorem extract_encode (i : Instr) {start len : Nat} (h : start + len ≤ 32) :
    (encode i).extractLsb' start len = i.argument.extractLsb' start len :=
  BitVec.extractLsb'_append_eq_of_add_le h

end Sys2Proof

namespace Sys2Proof.Machine

/-! # The statements about the encoding (30_encoding.md) -/

/-- Settles O10: a word that decodes is the encoding of its command, whose fields are where the encoder put them. -/
theorem operandsStandWhereTheFormatsPutThem : Obligations.OperandsStandWhereTheFormatsPutThem := by
  refine ⟨fun w => ?_, fun w i h => ?_, fun _ => ⟨rfl, rfl⟩⟩
  · conv_lhs => rw [← fields_append w]
    exact (BitVec.setWidth_eq _).symm.trans BitVec.setWidth_append_append_eq_shiftLeft_setWidth_or
  · obtain rfl := decode_eq_ok_iff_encode.1 h
    refine ⟨rsvField_encode i, ?_⟩
    cases i with
    | crcLoad b | crcUpdate b | crcCompare b | setAddr b | frameRead b =>
      simpa [extract_encode, Instr.argument] using fields_formatB b
    | frameWrite reg data => simpa [extract_encode, Instr.argument] using fields_formatW reg data
    | checkRead reg lo hi pec => simpa [extract_encode, Instr.argument] using fields_formatR reg lo hi pec

/-- Settles O11: a covered word is an encoding (`eq_encode_of_covered`), an encoding is covered by its own row, and one
word encodes one command. -/
theorem everyWordIsOneRowsCommandOrIllegal : Obligations.EveryWordIsOneRowsCommandOrIllegal := by
  refine ⟨rfl, fun w => ?_⟩
  cases h : decode w with
  | ok i =>
    obtain rfl := decode_eq_ok_iff_encode.1 h
    obtain ⟨r, hr, -, hcov⟩ := exists_row_covers_encode i
    refine .inl ⟨i, rfl, ⟨r, hr, beq_iff_eq.1 hcov⟩, fun r' hr' hcov' => ?_⟩
    obtain ⟨j, hj, hij⟩ := eq_encode_of_covered hr' hcov'
    rw [← hj, encode_injective hij]
  | error e =>
    refine .inr ⟨⟨e, rfl⟩, fun r hr hcov => ?_⟩
    obtain ⟨i, -, hi⟩ := eq_encode_of_covered hr hcov
    cases h.symm.trans (decode_eq_ok_iff_encode.2 hi)

/-- Settles O12: the two clauses are the two answers of the command port, and `legal_iff_decode_ok` says which
words get which. -/
theorem illegalWordOnlySetsTheCode : Obligations.IllegalWordOnlySetsTheCode := by
  intro w s op legal
  have hlegal : legal ↔ ∃ i, decode w = .ok i := legal_iff_decode_ok w
  rw [hlegal]
  cases h : decode w with
  | ok i => exact ⟨fun hn => absurd ⟨i, rfl⟩ hn, fun _ => ⟨i, rfl, commandPort_ok h s⟩⟩
  | error e => exact ⟨fun _ => commandPort_error h s, fun ⟨_, hi⟩ => nomatch hi⟩

end Sys2Proof.Machine

/-! # The format B words (30_encoding.md R61)

The word a format B command's rule gives for it, and what the other words of such an opcode do. -/

namespace Sys2Proof

/-- A command whose argument is one byte is encoded as its opcode, 48 zero bits and the byte (R60, R61). -/
theorem encode_formatB {i : Instr} {b : Byte} (h : i.argument = 0#24 ++ b) : encode i = i.opcode ++ 0#48 ++ b := by
  rw [encode, h, word_formatB]

/-- The word that the rule of a format B command gives decodes to the command. -/
theorem decode_formatB {i : Instr} {op b : Byte} (hop : i.opcode = op) (harg : i.argument = 0#24 ++ b) :
    decode (op ++ 0#48 ++ b) = .ok i := by
  rw [decode_eq_ok_iff_encode, encode_formatB harg, hop]

end Sys2Proof

namespace Sys2Proof.Machine

/-- A word of a format B opcode that is of no operand's form is illegal: any word that decodes is an encoding, and
the commands with such an opcode encode to that form (R61, R64). -/
theorem commandPort_formatB_illegal {op : Byte} (hop : op ∈ [0x01#8, 0x02#8, 0x03#8, 0x10#8, 0x12#8]) {w : Word}
    (hw : w.extractLsb' 56 8 = op) (hne : ∀ b : Byte, w ≠ op ++ 0#48 ++ b) (s : State) :
    commandPort w s = .next s.illegal := by
  cases h : decode w with
  | error e => exact commandPort_error h s
  | ok i =>
    obtain rfl := decode_eq_ok_iff_encode.1 h
    obtain rfl : i.opcode = op := (opField_encode i).symm.trans hw
    cases i with
    | crcLoad b | crcUpdate b | crcCompare b | setAddr b | frameRead b => exact absurd (encode_formatB rfl) (hne b)
    | frameWrite | checkRead => simp [Instr.opcode] at hop

/-! # The statements about the CRC and the CRC commands (40_crc.md) -/

/-- A shift as R80 writes it: a byte's mask to eight bits changes nothing. -/
theorem crcShift_eq_masked (d : Byte) :
    crcShift d = if d.getLsbD 7 = true then ((d <<< 1) &&& 0xFF) ^^^ 0x07 else (d <<< 1) &&& 0xFF := by
  have hmask : (d <<< 1) &&& (0xFF : Byte) = d <<< 1 := BitVec.and_allOnes
  rw [hmask]
  rfl

/-- Settles O16: the model's shift is that of R80, by `crcShift_eq_masked`. -/
theorem crc8IsTheBitLoop : Obligations.Crc8IsTheBitLoop :=
  ⟨fun c b => congrArg (Nat.repeat · 8 (c ^^^ b)) (funext crcShift_eq_masked), by decide⟩

/-- Settles O17: the equations of `crcSeq`, and the check value by computation. -/
theorem crcSeqFoldsFirstByteFirst : Obligations.CrcSeqFoldsFirstByteFirst :=
  ⟨crcSeq_nil, crcSeq_cons, by decide +kernel⟩

/-- Settles O23: the word by `decode_formatB`, the state by `Effect.loaded`, the other words of the opcode by
`commandPort_formatB_illegal`. -/
theorem crcLoadSeedsTheAccumulator : Obligations.CrcLoadSeedsTheAccumulator := fun imm8 s =>
  ⟨decode_formatB rfl rfl, (Effect.loaded imm8).exec_eq,
    fun _ hw hne => commandPort_formatB_illegal (by decide) hw hne s⟩

/-- Settles O24: the word by `decode_formatB`, the state by `Effect.updated`, the other words of the opcode by
`commandPort_formatB_illegal`. -/
theorem crcUpdateFeedsOneByte : Obligations.CrcUpdateFeedsOneByte := fun imm8 s =>
  ⟨decode_formatB rfl rfl, (Effect.updated imm8).exec_eq,
    fun _ hw hne => commandPort_formatB_illegal (by decide) hw hne s⟩

/-- Settles O25: the word by `decode_formatB`, the two answers by `Effect.equal` and `Effect.differs`, the other words
of the opcode by `commandPort_formatB_illegal`. -/
theorem crcCompareReportsEquality : Obligations.CrcCompareReportsEquality := fun _ s =>
  ⟨decode_formatB rfl rfl, fun h => (Effect.equal h).exec_eq, fun h => (Effect.differs h).exec_eq,
    fun _ hw hne => commandPort_formatB_illegal (by decide) hw hne s⟩

end Sys2Proof.Machine

/-! # The format W and format R words (30_encoding.md R61)

The words the rules of FRAME_WRITE and CHECK_READ give for them, and what the other words of their opcodes do. -/

namespace Sys2Proof

/-- FRAME_WRITE is encoded as its opcode, 32 zero bits, its register byte and its data (R60, R61). -/
theorem encode_frameWrite (reg : Byte) (data : Data) :
    encode (.frameWrite reg data) = 0x11#8 ++ 0#32 ++ reg ++ data :=
  (word_formatW _ reg data).symm

/-- CHECK_READ is encoded as its opcode, 24 zero bits and its four bytes (R60, R61). -/
theorem encode_checkRead (reg lo hi pec : Byte) :
    encode (.checkRead reg lo hi pec) = 0x13#8 ++ 0#24 ++ reg ++ lo ++ hi ++ pec :=
  (word_formatR _ reg lo hi pec).symm

/-- Opcode 0x11 is FRAME_WRITE's alone (R63). -/
theorem Instr.opcode_eq_frameWrite_iff (i : Instr) : i.opcode = 0x11#8 ↔ ∃ reg data, i = .frameWrite reg data := by
  cases i <;> simp [Instr.opcode]

/-- Opcode 0x13 is CHECK_READ's alone (R63). -/
theorem Instr.opcode_eq_checkRead_iff (i : Instr) :
    i.opcode = 0x13#8 ↔ ∃ reg lo hi pec, i = .checkRead reg lo hi pec := by
  cases i <;> simp [Instr.opcode]

end Sys2Proof

namespace Sys2Proof.Machine

/-- A word that encodes no command of its own opcode is illegal (R64): a word that decodes is an encoding, and an
encoding bears its command's opcode. -/
theorem commandPort_illegal_of_ne_encode {op : Byte} {w : Word} (hw : w.extractLsb' 56 8 = op)
    (hne : ∀ i : Instr, i.opcode = op → w ≠ encode i) (s : State) : commandPort w s = .next s.illegal := by
  cases h : decode w with
  | error e => exact commandPort_error h s
  | ok i =>
    obtain rfl := decode_eq_ok_iff_encode.1 h
    exact absurd rfl (hne i ((opField_encode i).symm.trans hw))

/-- A word of FRAME_WRITE's opcode that is of no operands' form is illegal (R64). -/
theorem commandPort_frameWrite_illegal {w : Word} (hw : w.extractLsb' 56 8 = 0x11#8)
    (hne : ∀ (reg : Byte) (data : Data), w ≠ 0x11#8 ++ 0#32 ++ reg ++ data) (s : State) :
    commandPort w s = .next s.illegal := by
  refine commandPort_illegal_of_ne_encode hw (fun i hop => ?_) s
  obtain ⟨reg, data, rfl⟩ := i.opcode_eq_frameWrite_iff.1 hop
  rw [encode_frameWrite]
  exact hne reg data

/-- A word of CHECK_READ's opcode that is of no operands' form is illegal (R64). -/
theorem commandPort_checkRead_illegal {w : Word} (hw : w.extractLsb' 56 8 = 0x13#8)
    (hne : ∀ reg lo hi pec : Byte, w ≠ 0x13#8 ++ 0#24 ++ reg ++ lo ++ hi ++ pec) (s : State) :
    commandPort w s = .next s.illegal := by
  refine commandPort_illegal_of_ne_encode hw (fun i hop => ?_) s
  obtain ⟨reg, lo, hi, pec, rfl⟩ := i.opcode_eq_checkRead_iff.1 hop
  rw [encode_checkRead]
  exact hne reg lo hi pec

/-! # The framer and the old CRC (R100) -/

/-- The frame that is built, with its PEC in `CRC`, does not depend on what `CRC` held. -/
theorem State.frameWrite_setCrc (s : State) (c reg : Byte) (data : Data) :
    (s.setCrc c).frameWrite reg data = s.frameWrite reg data := rfl

/-- CHECK_READ overwrites `CRC` in both of its outcomes and never reads it. -/
theorem exec_checkRead_setCrc (s : State) (c reg lo hi pec : Byte) :
    exec (.checkRead reg lo hi pec) (s.setCrc c) = exec (.checkRead reg lo hi pec) s := rfl

/-- FRAME_WRITE of a register that is not protected never reads `CRC`; a refused one keeps it. -/
theorem exec_frameWrite_setCrc {s : State} (c : Byte) {reg : Byte} (data : Data)
    (hp : s.params.isProtected reg = false) :
    exec (.frameWrite reg data) (s.setCrc c) = exec (.frameWrite reg data) s := by
  rw [(Effect.frameBuilt (s := s.setCrc c) data hp).exec_eq, State.frameWrite_setCrc,
    (Effect.frameBuilt data hp).exec_eq]

/-- CHECK_READ leaves the read PEC in `CRC`, whether it accepts or rejects (R107). -/
theorem Effect.crc_checkRead {s t : State} {reg lo hi pec : Byte} (e : Effect s (.checkRead reg lo hi pec) t) :
    t.regs.crc = rpec s.regs.sa reg lo hi := by
  cases e with
  | accepted | rejected => rfl

/-- FRAME_WRITE leaves the write PEC in `CRC` when the register is not protected (R105). -/
theorem Effect.crc_frameWrite {s t : State} {reg : Byte} {data : Data} (e : Effect s (.frameWrite reg data) t)
    (hp : s.params.isProtected reg = false) : t.regs.crc = wpec s.regs.sa reg data := by
  cases e with
  | frameBuilt => rfl
  | frameRefused _ hp' => simp [hp] at hp'

/-! # The statements about the framer's commands (41_framer.md) -/

/-- Settles O28: the two byte lists of the model, from the initial value, are those of R102 and R103. -/
theorem pecsCoverTheirBytes : Obligations.PecsCoverTheirBytes :=
  ⟨fun _ _ _ => rfl, fun _ _ _ _ => rfl⟩

/-- Settles O29: independence by `exec_checkRead_setCrc` and `exec_frameWrite_setCrc`, the PEC left in `CRC` by the
commands' `Effect`. -/
theorem framerPecIgnoresTheOldCrc : Obligations.FramerPecIgnoresTheOldCrc := fun s c reg lo hi pec data =>
  ⟨exec_checkRead_setCrc s c reg lo hi pec, fun _ h => (exec_iff_effect.1 h).crc_checkRead,
    fun hp => ⟨exec_frameWrite_setCrc c data hp, fun _ h => (exec_iff_effect.1 h).crc_frameWrite hp⟩⟩

/-- Settles O30: the word by `decode_formatB`, the two answers by `Effect.addrSet` and `Effect.addrRefused`, told apart
by `refusesAddr_iff`, the other words of the opcode by `commandPort_formatB_illegal`. -/
theorem setAddrTakesOrRefusesTheAddress : Obligations.SetAddrTakesOrRefusesTheAddress := by
  refine fun imm8 s => ⟨decode_formatB rfl rfl, fun hrange hfree => ?_,
    fun h => (Effect.addrRefused ((refusesAddr_iff _ _).2 h)).exec_eq,
    fun _ hw hne => commandPort_formatB_illegal (by decide) hw hne s⟩
  have htaken : refusesAddr s.params imm8 = false := by
    rw [← Bool.not_eq_true, refusesAddr_iff, hfree]
    simpa using hrange
  exact (Effect.addrSet htaken).exec_eq

/-- Settles O31: the word by `encode_frameWrite`, the two answers by `Effect.frameBuilt` and `Effect.frameRefused`, the
other words of the opcode by `commandPort_frameWrite_illegal`. -/
theorem frameWriteBuildsOrRefusesTheFrame : Obligations.FrameWriteBuildsOrRefusesTheFrame := fun reg data s =>
  ⟨decode_eq_ok_iff_encode.2 (encode_frameWrite reg data).symm, fun hp => (Effect.frameBuilt data hp).exec_eq,
    fun hp => (Effect.frameRefused data hp).exec_eq, fun _ hw hne => commandPort_frameWrite_illegal hw hne s⟩

/-- Settles O32: the word by `decode_formatB`, the state by `Effect.readFramed`, the other words of the opcode by
`commandPort_formatB_illegal`. -/
theorem frameReadBuildsTheCommandFrame : Obligations.FrameReadBuildsTheCommandFrame := fun reg s =>
  ⟨decode_formatB rfl rfl, (Effect.readFramed reg).exec_eq,
    fun _ hw hne => commandPort_formatB_illegal (by decide) hw hne s⟩

/-- Settles O33: the word by `encode_checkRead`, the two answers by `Effect.accepted` and `Effect.rejected`, the other
words of the opcode by `commandPort_checkRead_illegal`. -/
theorem checkReadAcceptsOnlyTheMatchingPec : Obligations.CheckReadAcceptsOnlyTheMatchingPec :=
  fun reg lo hi pec s =>
  ⟨decode_eq_ok_iff_encode.2 (encode_checkRead reg lo hi pec).symm, fun heq => (Effect.accepted heq).exec_eq,
    fun hne => (Effect.rejected hne).exec_eq, fun _ hw hne => commandPort_checkRead_illegal hw hne s⟩

end Sys2Proof.Machine

namespace Sys2Proof.Machine

/-! # The statements about failures (60_exceptions.md) -/

/-- Settles O40: the bound on the code is O39's; of the outcomes of a command (`Effect`), all but four end with `OK`, and
those four, like the illegal word, write just what the rule lists. -/
theorem failedCommandWritesOnlyWhatItsRuleLists : Obligations.FailedCommandWritesOnlyWhatItsRuleLists := by
  refine ⟨fun w s t h => ?_, fun w s t h hfail => ?_⟩
  · obtain ⟨-, -, -, -, hle⟩ := eachResultCodeHasItsCause w s t h
    exact hle
  · obtain ⟨hparams, hhost⟩ := commandPort_keeps h
    refine ⟨hparams, hhost, ?_⟩
    cases commandPort_iff_response.1 h with
    | illegal hd => rw [hd]; rfl
    | command hd e =>
      rw [hd]
      cases e with
      | differs | addrRefused | frameRefused | rejected => rfl
      | loaded | updated | equal | addrSet | frameBuilt | readFramed | accepted => exact absurd rfl hfail

end Sys2Proof.Machine

/-! # The written form of a command (30_encoding.md R66)

`Fits` is `Written.wellFormed` said of the numbers and widths alone, so that it can be taken apart one field at a time. -/

namespace Sys2Proof

/-- As many numbers as fields, and each fits its field. -/
def Fits (ns ws : List Nat) : Prop := ns.length = ws.length ∧ fieldsFit ns ws = true

theorem Written.wellFormed_iff_fits (c : Written) : c.wellFormed = true ↔ Fits c.operands c.mnemonic.widths := by
  rw [Written.wellFormed, Bool.and_eq_true, Written.countOk, beq_iff_eq]
  rfl

/-- No fields are left exactly when no numbers are. -/
@[simp] theorem fits_nil (ns : List Nat) : Fits ns [] ↔ ns = [] := by
  cases ns <;> simp [Fits, fieldsFit]

/-- The numbers of a field and of those after it: a value of the field's width, and the rest. -/
@[simp] theorem fits_cons (ns : List Nat) (w : Nat) (ws : List Nat) :
    Fits ns (w :: ws) ↔ ∃ (v : BitVec w) (ms : List Nat), ns = v.toNat :: ms ∧ Fits ms ws := by
  cases ns with
  | nil => simp [Fits]
  | cons n ms =>
    have hv : n < 2 ^ w ↔ ∃ v : BitVec w, n = v.toNat :=
      ⟨fun h => ⟨BitVec.ofNatLT n h, rfl⟩, fun ⟨v, hv⟩ => hv ▸ v.isLt⟩
    simp only [Fits, fieldsFit, List.length_cons, Nat.add_right_cancel_iff, Bool.and_eq_true, decide_eq_true_iff, hv]
    constructor
    · rintro ⟨hl, ⟨v, rfl⟩, hf⟩
      exact ⟨v, ms, rfl, hl, hf⟩
    · rintro ⟨v, ms', h, hl, hf⟩
      obtain ⟨rfl, rfl⟩ := List.cons.inj h
      exact ⟨hl, ⟨v, rfl⟩, hf⟩

/-- The well-formed written commands are the written forms of commands. -/
theorem Written.wellFormed_iff_exists_written (c : Written) : c.wellFormed = true ↔ ∃ i : Instr, c = i.written := by
  rw [Written.wellFormed_iff_fits]
  constructor
  · intro h
    obtain ⟨m, ns⟩ := c
    cases m <;> simp only [Mnemonic.widths, fits_cons, fits_nil] at h
    case crcLoad => obtain ⟨b, _, rfl, rfl⟩ := h; exact ⟨.crcLoad b, rfl⟩
    case crcUpdate => obtain ⟨b, _, rfl, rfl⟩ := h; exact ⟨.crcUpdate b, rfl⟩
    case crcCompare => obtain ⟨b, _, rfl, rfl⟩ := h; exact ⟨.crcCompare b, rfl⟩
    case setAddr => obtain ⟨b, _, rfl, rfl⟩ := h; exact ⟨.setAddr b, rfl⟩
    case frameWrite => obtain ⟨reg, _, rfl, data, _, rfl, rfl⟩ := h; exact ⟨.frameWrite reg data, rfl⟩
    case frameRead => obtain ⟨reg, _, rfl, rfl⟩ := h; exact ⟨.frameRead reg, rfl⟩
    case checkRead =>
      obtain ⟨reg, _, rfl, lo, _, rfl, hi, _, rfl, pec, _, rfl, rfl⟩ := h
      exact ⟨.checkRead reg lo hi pec, rfl⟩
  · rintro ⟨i, rfl⟩
    cases i <;> simp [Instr.written, Mnemonic.widths]

theorem Instr.wellFormed_eq_true (i : Instr) : i.wellFormed = true :=
  (Written.wellFormed_iff_exists_written _).2 ⟨i, rfl⟩

/-- A command's own encoding decodes to it. -/
@[simp] theorem decode_encode (i : Instr) : decode (encode i) = .ok i := decode_eq_ok_iff_encode.2 rfl

end Sys2Proof

namespace Sys2Proof.Machine

/-- A number fits a field as the value it is (R66). -/
@[simp] theorem fit_eq_ok_iff {w n : Nat} {v : BitVec w} : fit w n = .ok v ↔ n = v.toNat := by
  unfold fit
  split
  next h => rw [Except.ok.injEq, ← BitVec.toNat_inj, BitVec.toNat_ofNat, Nat.mod_eq_of_lt h]
  next h => exact iff_of_false nofun fun hv => h (hv ▸ v.isLt)

/-- An assembler step that reads one more value succeeds exactly when that value does and what follows it does. -/
theorem bind_eq_ok_iff {α β : Type} {x : Except AsmError α} {f : α → Except AsmError β} {b : β} :
    (x >>= f) = .ok b ↔ ∃ a, x = .ok a ∧ f a = .ok b := by
  cases x <;> simp [bind, Except.bind]

/-- A written command assembles to a command exactly when it is the command's written form (R66). -/
theorem assemble_eq_ok_iff (c : Written) (i : Instr) : assemble c = .ok i ↔ c = i.written := by
  constructor
  · intro h
    obtain ⟨m, ns⟩ := c
    unfold assemble at h
    split at h <;> simp only [bind_eq_ok_iff, fit_eq_ok_iff, Except.ok.injEq, reduceCtorEq] at h
    case h_5 => obtain ⟨reg, rfl, data, rfl, rfl⟩ := h; simp_all [Instr.written]
    case h_7 => obtain ⟨reg, rfl, lo, rfl, hi, rfl, pec, rfl, rfl⟩ := h; simp_all [Instr.written]
    all_goals obtain ⟨b, rfl, rfl⟩ := h; simp_all [Instr.written]
  · rintro rfl
    cases i <;> simp [assemble, Instr.written, bind_eq_ok_iff]

/-! # The statements about the encoding and the assembler that go both ways (30_encoding.md) -/

/-- Settles O14: every command is well-formed because its operands have their fields' widths, and `decode_encode`. -/
theorem decodeOfEncodeIsTheCommand : Obligations.DecodeOfEncodeIsTheCommand := fun i =>
  ⟨i.wellFormed_eq_true, decode_encode i⟩

/-- Settles O15: a word that decodes is the encoding of its command. -/
theorem encodeOfDecodeIsTheWord : Obligations.EncodeOfDecodeIsTheWord := fun _ _ h =>
  (decode_eq_ok_iff_encode.1 h).symm

/-- Settles O13: each of the seven words is decoded by computation. -/
theorem writtenOutWordsDecode : Obligations.WrittenOutWordsDecode := by
  unfold Obligations.WrittenOutWordsDecode
  decide

/-- Settles O46: what assembles is what a command writes, and that is what is well-formed. -/
theorem assemblerNeverTruncates : Obligations.AssemblerNeverTruncates := by
  refine ⟨assemble_eq_ok_iff, fun c => ?_⟩
  simp only [assemble_eq_ok_iff, Written.wellFormed_iff_exists_written]

/-- Settles O47: the expansions as they are defined, the waits being those of R162. -/
theorem pseudoCommandsExpandAsStated : Obligations.PseudoCommandsExpandAsStated :=
  ⟨fun _ => rfl, fun _ => rfl, fun _ _ => rfl, fun _ => rfl, fun _ _ => rfl⟩

end Sys2Proof.Machine

/-! # Safety: what the registers hold (10_state.md R25 to R29)

`Regs.Safe` speaks of the code, `TXLEN` and `TXF` alone; one lemma per kind of frame that an outcome can leave. -/

namespace Sys2Proof.Machine

section
variable {p : Params} {r : Regs}

/-- With no frame valid, any code from `OK` to `ILLEGAL` is safe. -/
theorem Regs.safe_of_no_frame (c : BitVec 3) (hc : c ≤ codeIllegal) (htxlen : r.txlen = 0) (hcode : r.code = c) :
    r.Safe p where
  code_legal := hcode ▸ hc
  txlen_legal := .inl htxlen
  read_frame h := absurd (htxlen.symm.trans h) (by decide)
  write_allowed h := absurd (htxlen.symm.trans h) (by decide)
  write_pec h := absurd (htxlen.symm.trans h) (by decide)
  refused_no_frame _ := htxlen

/-- A read's command frame is safe (R27, R106). -/
theorem Regs.safe_of_readFrame {reg : Byte} (htxlen : r.txlen = 1) (htxf : r.txf = packRead reg) (hcode : r.code = codeOk) :
    r.Safe p where
  code_legal := hcode ▸ by decide
  txlen_legal := .inr (.inl htxlen)
  read_frame _ := by rw [htxf, frameByte_packRead]
  write_allowed h := absurd (htxlen.symm.trans h) (by decide)
  write_pec h := absurd (htxlen.symm.trans h) (by decide)
  refused_no_frame h := absurd (hcode.symm.trans h) (by decide)

/-- A write frame with its PEC, of a register that is not protected, is safe (R27, R102, R105). -/
theorem Regs.safe_of_writeFrame {a : Addr} {reg : Byte} {data : Data} (htxlen : r.txlen = 4)
    (htxf : r.txf = packWrite (wpec a reg data) reg data) (hp : p.isProtected reg = false) (hcode : r.code = codeOk) :
    r.Safe p where
  code_legal := hcode ▸ by decide
  txlen_legal := .inr (.inr htxlen)
  read_frame h := absurd (htxlen.symm.trans h) (by decide)
  write_allowed _ := by rw [htxf, frameByte_packWrite_0, hp]
  write_pec _ := ⟨a, by simp [htxf]⟩
  refused_no_frame h := absurd (hcode.symm.trans h) (by decide)

/-- What keeps the frame of safe registers and ends with a legal code other than `PROTECTED` leaves them safe. -/
theorem Regs.Safe.of_frame_eq {r' : Regs} (h : r.Safe p) (c : BitVec 3) (hc : c ≤ codeIllegal ∧ c ≠ codeProtected)
    (htxlen : r'.txlen = r.txlen) (htxf : r'.txf = r.txf) (hcode : r'.code = c) : r'.Safe p where
  code_legal := hcode ▸ hc.1
  txlen_legal := htxlen ▸ h.txlen_legal
  read_frame := by rw [htxlen, htxf]; exact h.read_frame
  write_allowed := by rw [htxlen, htxf]; exact h.write_allowed
  write_pec := by rw [htxlen, htxf]; exact h.write_pec
  refused_no_frame hp := absurd (hcode.symm.trans hp) hc.2

end

/-- The registers after reset are safe, whatever the parameters (R29). -/
theorem Regs.reset_safe (p : Params) : Regs.reset.Safe p :=
  Regs.safe_of_no_frame codeOk (by decide) rfl rfl

/-- Every command keeps a safe state safe. -/
theorem Effect.safe {s t : State} {i : Instr} (e : Effect s i t) (hs : s.Safe) : t.Safe := by
  cases e with
  | frameBuilt data hp => exact Regs.safe_of_writeFrame rfl rfl hp rfl
  | frameRefused => exact Regs.safe_of_no_frame codeProtected (by decide) rfl rfl
  | readFramed => exact Regs.safe_of_readFrame rfl rfl rfl
  | loaded | updated | equal | addrSet | accepted => exact hs.of_frame_eq codeOk (by decide) rfl rfl rfl
  | differs | rejected => exact hs.of_frame_eq codeChecksum (by decide) rfl rfl rfl
  | addrRefused => exact hs.of_frame_eq codeRange (by decide) rfl rfl rfl

/-- Every command word, legal or not, keeps a safe state safe. -/
theorem commandPort_safe {w : Word} {s t : State} (h : commandPort w s = .next t) (hs : s.Safe) : t.Safe := by
  cases commandPort_iff_response.1 h with
  | illegal => exact hs.of_frame_eq codeIllegal (by decide) rfl rfl rfl
  | command _ e => exact e.safe hs

/-- Settles O45: of the four kinds of step, waiting and a read keep the registers, a reset gives those of R29, and a command
word keeps safety by `commandPort_safe`. -/
theorem everyStepKeepsTheBlockSafe : Obligations.EveryStepKeepsTheBlockSafe := by
  intro s t hs h
  obtain ⟨-, rfl⟩ | ⟨w, rest, -, hw⟩ | ⟨idx, rest, -, rfl⟩ | ⟨rest, -, rfl⟩ := step_cases h
  · exact hs
  · exact commandPort_safe hw hs
  · exact hs
  · exact Regs.reset_safe _

/-- Settles O44: no frame is valid after reset. -/
theorem resetStateIsSafe : Obligations.ResetStateIsSafe := Regs.reset_safe _

/-! # The statements about the ports and the step (20_memory.md, 60_exceptions.md) -/

/-- A register is seen whole through the port's 32 bits (R41). -/
theorem eq_of_setWidth_port_eq {n : Nat} {x y : BitVec n} (hn : n ≤ 32) (h : x.setWidth 32 = y.setWidth 32) : x = y := by
  rw [← (port_fields x hn).1, h, (port_fields y hn).1]

/-- Settles O4: each register, and each field of `STATUS`, is read back from its index. -/
theorem readPortShowsEveryRegister : Obligations.ReadPortShowsEveryRegister := by
  intro r r' h
  have hcrc : r.crc = r'.crc := eq_of_setWidth_port_eq (by decide) (h 0x00)
  have hsa : r.sa = r'.sa := eq_of_setWidth_port_eq (by decide) (h 0x01)
  have hstatus : r.status = r'.status := h 0x02
  have hcode : r.code = r'.code := by rw [← statusCode_status r, hstatus, statusCode_status]
  have hrdv : r.rdv = r'.rdv := by rw [← statusRdv_status r, hstatus, statusRdv_status]
  have htxlen : r.txlen = r'.txlen := by rw [← statusTxlen_status r, hstatus, statusTxlen_status]
  have htxf : r.txf = r'.txf := h 0x03
  have hrdata : r.rdata = r'.rdata := eq_of_setWidth_port_eq (by decide) (h 0x04)
  cases r
  cases r'
  simp_all

/-- Settles O2: the step serves the reset input (`step_cons`); `State.reset` by computation. -/
theorem resetInputRestoresTheRegisters : Obligations.ResetInputRestoresTheRegisters :=
  ⟨fun _ _ h => step_cons h, rfl, step_nil rfl⟩

/-- Above the five registers every index reads as zero (R41). -/
theorem Regs.read_of_five_le (r : Regs) {idx : Byte} (h : 5 ≤ idx.toNat) : r.read idx = 0 := by
  have hne (k : Byte) (hk : k.toNat < 5) : idx ≠ k := by
    rintro rfl
    omega
  unfold Regs.read
  rw [if_neg (hne _ (by decide)), if_neg (hne _ (by decide)), if_neg (hne _ (by decide)), if_neg (hne _ (by decide)),
    if_neg (hne _ (by decide))]

/-- Settles O3: the port index by index, and the step that serves a read (`step_cons`). -/
theorem readPortAnswersEveryIndexWithoutSideEffect : Obligations.ReadPortAnswersEveryIndexWithoutSideEffect :=
  ⟨fun r => ⟨r.read_crc, r.read_sa, r.read_status, r.read_txf, r.read_rdata, fun _ => r.read_of_five_le⟩,
    fun _ _ _ h => step_cons h⟩

/-- A command word that decodes is served as its command (R45). -/
theorem serve_command {w : Word} {i : Instr} (h : decode w = .ok i) (s : State) : serve (.command w) s = exec i s :=
  commandPort_ok h s

/-- Settles O5: a step serves the first request, and `withFetchWord` puts the word first. -/
theorem stepRunsTheDecodedCommand : Obligations.StepRunsTheDecodedCommand := by
  refine ⟨fun s w i rest hscript hd => (step_cons hscript).trans (serve_command hd _), fun s w i hd => ?_⟩
  rw [step_withFetchWord, tableWord_toNat, commandPort_ok hd]

/-- Settles O6: the four kinds of step; a command word keeps the host's side. -/
theorem requestsAreServedInOrder : Obligations.RequestsAreServedInOrder := by
  intro s t h
  obtain ⟨hscript, rfl⟩ | ⟨w, rest, hscript, hw⟩ | ⟨idx, rest, hscript, rfl⟩ | ⟨rest, hscript, rfl⟩ := step_cases h <;>
    simp only [hscript]
  · exact ⟨rfl, (List.append_nil _).symm⟩
  · obtain ⟨-, hhost⟩ := commandPort_keeps hw
    rw [hhost]
    exact ⟨rfl, (List.append_nil _).symm⟩
  · exact ⟨rfl, rfl⟩
  · exact ⟨rfl, (List.append_nil _).symm⟩

/-- Every request but a second caller's is served with a next state (R131, R140). -/
theorem exists_serve_next {q : Request} (hq : q ≠ .unserialised) (s : State) : ∃ t, serve q s = .next t := by
  cases q with
  | command w =>
    obtain ⟨t, ht, -, -⟩ := commandPort_next w s
    exact ⟨t, ht⟩
  | read idx => exact ⟨_, rfl⟩
  | reset => exact ⟨_, rfl⟩
  | unserialised => exact absurd rfl hq

/-- Settles O7: the step serves the first request if there is one, and `exists_serve_next`. -/
theorem onlyAnUnserialisedCallerIsRefused : Obligations.OnlyAnUnserialisedCallerIsRefused := by
  refine fun s => ⟨fun hne => ?_, fun rest h => step_cons h, step_nil⟩
  cases hscript : s.host.script with
  | nil => exact ⟨s, step_nil hscript⟩
  | cons q rest =>
    rw [step_cons hscript]
    exact exists_serve_next (fun hq => hne rest (hq ▸ hscript)) _

/-- Settles O8: of the four kinds of step, waiting and a read keep the registers. -/
theorem registersChangeOnlyByCommandOrReset : Obligations.RegistersChangeOnlyByCommandOrReset := by
  intro s t h hne
  obtain ⟨-, rfl⟩ | ⟨w, rest, hscript, -⟩ | ⟨idx, rest, -, rfl⟩ | ⟨rest, hscript, -⟩ := step_cases h
  · exact absurd rfl hne
  · exact ⟨rest, .inl ⟨w, hscript⟩⟩
  · exact absurd rfl hne
  · exact ⟨rest, .inr hscript⟩

/-- No step changes the parameters (R7, R160). -/
theorem step_params {s t : State} (h : step s = .next t) : t.params = s.params := by
  obtain ⟨-, rfl⟩ | ⟨w, rest, -, hw⟩ | ⟨idx, rest, -, rfl⟩ | ⟨rest, -, rfl⟩ := step_cases h
  · rfl
  · exact (commandPort_keeps hw).1
  · rfl
  · rfl

/-- Settles O9: by induction on the number of steps, with `step_params`. -/
theorem parametersNeverChange : Obligations.ParametersNeverChange := by
  intro k
  induction k with
  | zero =>
    intro s t h
    cases (core_run_zero s).symm.trans h
    rfl
  | succ k ih =>
    intro s t h
    obtain ⟨u, hu, hrun⟩ := core_run_succ_inv h
    exact (ih u t hrun).trans (step_params hu)

/-! # Noninterference (60_exceptions.md R131, 10_state.md R30) -/

/-- What a command leaves in two states that were alike in all it reads: the same in `CRC`, `SA`, the parameters and the code,
and each other field either the same in both or as it was in both. -/
structure AlikeAfter (s s' t t' : State) : Prop where
  crc : t.regs.crc = t'.regs.crc
  sa : t.regs.sa = t'.regs.sa
  params : t.params = t'.params
  code : t.regs.code = t'.regs.code
  txf : t.regs.txf = t'.regs.txf ∨ t.regs.txf = s.regs.txf ∧ t'.regs.txf = s'.regs.txf
  txlen : t.regs.txlen = t'.regs.txlen ∨ t.regs.txlen = s.regs.txlen ∧ t'.regs.txlen = s'.regs.txlen
  rdv : t.regs.rdv = t'.regs.rdv ∨ t.regs.rdv = s.regs.rdv ∧ t'.regs.rdv = s'.regs.rdv
  rdata : t.regs.rdata = t'.regs.rdata ∨ t.regs.rdata = s.regs.rdata ∧ t'.regs.rdata = s'.regs.rdata

/-- A command has the same outcome in a state that is alike in `CRC`, `SA` and the parameters. -/
theorem Effect.exists_alike {s s' t : State} {i : Instr} (e : Effect s i t) (hcrc : s.regs.crc = s'.regs.crc)
    (hsa : s.regs.sa = s'.regs.sa) (hparams : s.params = s'.params) : ∃ t', Effect s' i t' ∧ AlikeAfter s s' t t' := by
  cases e with
  | loaded b => exact ⟨_, .loaded b, by constructor <;> simp [hsa, hparams]⟩
  | updated b => exact ⟨_, .updated b, by constructor <;> simp [hcrc, hsa, hparams]⟩
  | equal h => exact ⟨_, .equal (hcrc ▸ h), by constructor <;> simp [hcrc, hsa, hparams]⟩
  | differs h => exact ⟨_, .differs (hcrc ▸ h), by constructor <;> simp [hcrc, hsa, hparams]⟩
  | addrSet h => exact ⟨_, .addrSet (hparams ▸ h), by constructor <;> simp [hcrc, hparams]⟩
  | addrRefused h => exact ⟨_, .addrRefused (hparams ▸ h), by constructor <;> simp [hcrc, hsa, hparams]⟩
  | frameBuilt data h => exact ⟨_, .frameBuilt data (hparams ▸ h), by constructor <;> simp [hsa, hparams]⟩
  | frameRefused data h => exact ⟨_, .frameRefused data (hparams ▸ h), by constructor <;> simp [hcrc, hsa, hparams]⟩
  | readFramed reg => exact ⟨_, .readFramed reg, by constructor <;> simp [hcrc, hsa, hparams]⟩
  | accepted h => exact ⟨_, .accepted (hsa ▸ h), by constructor <;> simp [hsa, hparams]⟩
  | rejected h => exact ⟨_, .rejected (hsa ▸ h), by constructor <;> simp [hsa, hparams]⟩

/-- A word has the same outcome in a state that is alike in `CRC`, `SA` and the parameters. -/
theorem commandPort_alike {w : Word} {s s' t t' : State} (hcrc : s.regs.crc = s'.regs.crc) (hsa : s.regs.sa = s'.regs.sa)
    (hparams : s.params = s'.params) (h : commandPort w s = .next t) (h' : commandPort w s' = .next t') :
    AlikeAfter s s' t t' := by
  cases commandPort_iff_response.1 h with
  | illegal hd =>
    rw [commandPort_error_eq hd h']
    constructor <;> simp [hcrc, hsa, hparams]
  | command hd e =>
    obtain ⟨u, hu, hua⟩ := e.exists_alike hcrc hsa hparams
    cases (commandPort_iff_response.2 (.command hd hu)).symm.trans h'
    exact hua

/-- Settles O41: the clauses are the fields of `AlikeAfter`, which `commandPort_alike` proves. -/
theorem noCommandReadsStatusOrFrameOrData : Obligations.NoCommandReadsStatusOrFrameOrData := by
  intro w s s' t t' hcrc hsa hparams h h'
  obtain ⟨hc, ha, hp, hcode, htxf, htxlen, hrdv, hrdata⟩ := commandPort_alike hcrc hsa hparams h h'
  exact ⟨hc, ha, hp, hcode, htxf, htxlen, hrdv, hrdata⟩

end Sys2Proof.Machine

namespace Sys2Proof.Machine

/-! # The algebra of the CRC (40_crc.md R82): linearity over GF(2), and bytes told apart -/

/-- `crc8` rests on the exclusive OR of seed and byte alone (R82(a)). -/
theorem crc8_eq_crc8_zero (c b : Byte) : crc8 c b = crc8 0#8 (c ^^^ b) := by
  rw [crc8, crc8, BitVec.zero_xor]

theorem crc8_comm (c b : Byte) : crc8 c b = crc8 b c := by
  rw [crc8, crc8, BitVec.xor_comm]

/-- A shift is linear: the top bits of two bytes decide on two uses of the polynomial, which cancel if both are set. -/
theorem crcShift_xor (x y : Byte) : crcShift (x ^^^ y) = crcShift x ^^^ crcShift y := by
  unfold crcShift
  rw [BitVec.getLsbD_xor, BitVec.shiftLeft_xor_distrib]
  cases x.getLsbD 7 <;> cases y.getLsbD 7
  · rfl
  · simp [BitVec.xor_assoc]
  · simp [BitVec.xor_assoc, BitVec.xor_comm Config.crcPoly]
  · simp [BitVec.xor_assoc, BitVec.xor_comm Config.crcPoly]

/-- What each use of a linear map keeps, a number of uses keep. -/
theorem repeat_xor {f : Byte → Byte} (hf : ∀ x y, f (x ^^^ y) = f x ^^^ f y) (n : Nat) (x y : Byte) :
    Nat.repeat f n (x ^^^ y) = Nat.repeat f n x ^^^ Nat.repeat f n y := by
  induction n with
  | zero => rfl
  | succ n ih => rw [Nat.repeat, ih, hf]; rfl

/-- `crc8` is linear (R82(c)). -/
theorem crc8_xor (c c' b b' : Byte) : crc8 (c ^^^ c') (b ^^^ b') = crc8 c b ^^^ crc8 c' b' := by
  have hxor : c ^^^ c' ^^^ (b ^^^ b') = c ^^^ b ^^^ (c' ^^^ b') := by ac_rfl
  rw [crc8, hxor, repeat_xor crcShift_xor]
  rfl

/-- `crc8` of equal bytes is zero (R82(b)). -/
@[simp] theorem crc8_self (c : Byte) : crc8 c c = 0#8 := by
  rw [crc8_eq_crc8_zero, BitVec.xor_self]
  rfl

/-- A shift loses no byte: an odd result tells that the polynomial was used, and so what the top bit was. -/
theorem crcShift_eq_zero {d : Byte} (h : crcShift d = 0#8) : d = 0#8 := by
  revert d
  decide

theorem repeat_crcShift_eq_zero {n : Nat} {d : Byte} (h : Nat.repeat crcShift n d = 0#8) : d = 0#8 := by
  induction n with
  | zero => exact h
  | succ n ih => exact ih (crcShift_eq_zero h)

/-- Only equal bytes have `crc8` zero. -/
theorem crc8_eq_zero_iff {c b : Byte} : crc8 c b = 0#8 ↔ c = b :=
  ⟨fun h => BitVec.xor_eq_zero_iff.1 (repeat_crcShift_eq_zero h), fun h => h ▸ crc8_self c⟩

/-- For a fixed seed `crc8` is one to one (R82(d)): the difference of two bytes has `crc8` zero from seed zero. -/
theorem crc8_injective (c : Byte) : Function.Injective (crc8 c) := by
  intro b b' h
  have hdiff : crc8 (c ^^^ c) (b ^^^ b') = 0#8 := by rw [crc8_xor, h, BitVec.xor_self]
  rw [BitVec.xor_self, crc8_eq_zero_iff] at hdiff
  exact BitVec.xor_eq_zero_iff.1 hdiff.symm

/-- A sequence may be cut anywhere (R82(e)). -/
@[simp] theorem crcSeq_append (c : Byte) (s t : List Byte) : crcSeq c (s ++ t) = crcSeq (crcSeq c s) t := by
  induction s generalizing c with
  | nil => rfl
  | cons b rest ih => exact ih _

/-- For a fixed sequence `crcSeq` is one to one in its seed. -/
theorem crcSeq_injective (s : List Byte) : Function.Injective fun c => crcSeq c s := by
  induction s with
  | nil => exact fun _ _ h => h
  | cons b rest ih =>
    intro c c' h
    have hstep : crc8 b c = crc8 b c' := by
      rw [crc8_comm, crc8_comm b]
      exact ih h
    exact crc8_injective b hstep

/-- One byte that is changed anywhere in a sequence changes its CRC (R82(d)). -/
theorem crcSeq_ne_of_ne {b b' : Byte} (h : b ≠ b') (c : Byte) (before after : List Byte) :
    crcSeq c (before ++ b :: after) ≠ crcSeq c (before ++ b' :: after) := by
  intro heq
  simp only [crcSeq_append, crcSeq_cons] at heq
  exact h (crc8_injective _ (crcSeq_injective after heq))

end Sys2Proof.Machine

/-! # The CRC as a polynomial remainder (20_memory.md R46)

All is said modulo the generator, in `AdjoinRoot generator`, the polynomials over GF(2) modulo it. -/

namespace Sys2Proof

open Polynomial Machine

/-- The generator x^8 + x^2 + x + 1 (R2, R46). -/
noncomputable def generator : (ZMod 2)[X] := X ^ 8 + X ^ 2 + X + 1

theorem natDegree_generator : generator.natDegree = 8 := by
  unfold generator
  compute_degree!

theorem monic_generator : generator.Monic := by
  unfold generator
  monicity!

/-- A byte's polynomial is the sum of its bits' terms. -/
theorem bytePoly_eq_sum (b : Byte) :
    bytePoly b = ∑ k ∈ Finset.range 8, C (if b.getLsbD k then 1 else 0 : ZMod 2) * X ^ k := by
  refine Finset.sum_congr rfl fun k _ => ?_
  split <;> simp

theorem degree_bytePoly_lt (b : Byte) : (bytePoly b).degree < generator.degree := by
  rw [degree_eq_natDegree monic_generator.ne_zero, natDegree_generator, bytePoly_eq_sum]
  refine (degree_sum_le _ _).trans_lt ((Finset.sup_lt_iff (WithBot.bot_lt_coe 8)).2 fun k hk => ?_)
  exact (degree_C_mul_X_pow_le _ _).trans_lt (by exact_mod_cast Finset.mem_range.1 hk)

@[simp] theorem bytePoly_zero : bytePoly 0#8 = 0 := by
  simp [bytePoly]

/-- Exclusive OR of bytes is addition of polynomials. -/
theorem bytePoly_xor (x y : Byte) : bytePoly (x ^^^ y) = bytePoly x + bytePoly y := by
  unfold bytePoly
  rw [← Finset.sum_add_distrib]
  refine Finset.sum_congr rfl fun k _ => ?_
  rw [BitVec.getLsbD_xor]
  cases x.getLsbD k <;> cases y.getLsbD k <;> simp [CharTwo.add_self_eq_zero]

/-- A shift to the left is a product with x, less the term that the top bit would give. -/
theorem bytePoly_shiftLeft (d : Byte) :
    bytePoly (d <<< 1) + (if d.getLsbD 7 then X ^ 8 else 0) = bytePoly d * X := by
  have hbit : ∀ k ∈ Finset.range 7, (if (d <<< 1).getLsbD (k + 1) then X ^ (k + 1) else 0 : (ZMod 2)[X]) =
      if d.getLsbD k then X ^ (k + 1) else 0 := by
    intro k hk
    have hlt : k + 1 < 8 := Nat.succ_lt_succ (Finset.mem_range.1 hk)
    rw [BitVec.getLsbD_shiftLeft, Nat.add_sub_cancel, decide_eq_true hlt]
    simp
  simp only [bytePoly, Finset.sum_mul, ite_mul, zero_mul, ← pow_succ]
  rw [Finset.sum_range_succ', Finset.sum_range_succ _ 7, Finset.sum_congr rfl hbit]
  simp

/-- The truncated polynomial of R2 is the generator without its highest term, which in characteristic 2 is their sum. -/
theorem bytePoly_crcPoly : bytePoly Config.crcPoly + generator = X ^ 8 := by
  have hpoly : bytePoly Config.crcPoly = X ^ 2 + X + 1 := by
    simp [bytePoly, Finset.sum_range_succ, Config.crcPoly]
    ring
  rw [hpoly, generator]
  linear_combination CharTwo.add_self_eq_zero (X ^ 2 + X + 1 : (ZMod 2)[X])

/-- A shift of R80 is a product with x, up to a multiple of the generator. -/
theorem bytePoly_crcShift (d : Byte) :
    bytePoly (crcShift d) + (if d.getLsbD 7 then generator else 0) = bytePoly d * X := by
  have hshift := bytePoly_shiftLeft d
  unfold crcShift
  split
  next h => rw [bytePoly_xor, add_assoc, bytePoly_crcPoly, ← hshift, if_pos h]
  next h => rw [← hshift, if_neg h]

/-- A shift of R80 is a product with x modulo the generator. -/
theorem mk_bytePoly_crcShift (d : Byte) :
    AdjoinRoot.mk generator (bytePoly (crcShift d)) = AdjoinRoot.mk generator (bytePoly d * X) := by
  rw [← bytePoly_crcShift d, map_add]
  split <;> simp

/-- `n` shifts are a product with x^n modulo the generator. -/
theorem mk_bytePoly_repeat (n : Nat) (d : Byte) :
    AdjoinRoot.mk generator (bytePoly (Nat.repeat crcShift n d)) = AdjoinRoot.mk generator (bytePoly d * X ^ n) := by
  induction n with
  | zero => rw [pow_zero, mul_one]; rfl
  | succ n ih => rw [Nat.repeat, mk_bytePoly_crcShift, map_mul, ih, ← map_mul, mul_assoc, pow_succ]

/-- A byte fed to the CRC is added, and the sum moved up by eight powers, modulo the generator. -/
theorem mk_bytePoly_crc8 (c b : Byte) :
    AdjoinRoot.mk generator (bytePoly (crc8 c b)) = AdjoinRoot.mk generator ((bytePoly c + bytePoly b) * X ^ 8) := by
  rw [crc8, mk_bytePoly_repeat, bytePoly_xor]

/-- The CRC of a message from any seed: the seed stands above the message, and all is moved up by eight powers, modulo the
generator. -/
theorem mk_bytePoly_crcSeq (c : Byte) (s : List Byte) : AdjoinRoot.mk generator (bytePoly (crcSeq c s)) =
    AdjoinRoot.mk generator (bytePoly c * X ^ (8 * s.length) + messagePoly s * X ^ 8) := by
  induction s generalizing c with
  | nil => simp [messagePoly]
  | cons b rest ih =>
    have hmove : (bytePoly c + bytePoly b) * X ^ 8 * X ^ (8 * rest.length) + messagePoly rest * X ^ 8 =
        bytePoly c * X ^ (8 * (b :: rest).length) + messagePoly (b :: rest) * X ^ 8 := by
      rw [messagePoly, List.length_cons]
      ring
    calc AdjoinRoot.mk generator (bytePoly (crcSeq c (b :: rest)))
      _ = AdjoinRoot.mk generator (bytePoly (crc8 c b) * X ^ (8 * rest.length) + messagePoly rest * X ^ 8) := ih _
      _ = AdjoinRoot.mk generator
            ((bytePoly c + bytePoly b) * X ^ 8 * X ^ (8 * rest.length) + messagePoly rest * X ^ 8) := by
          rw [map_add, map_mul, mk_bytePoly_crc8, ← map_mul, ← map_add]
      _ = _ := congrArg _ hmove

end Sys2Proof

namespace Sys2Proof.Machine

/-! # The statements about the CRC's algebra (40_crc.md section 1) -/

/-- The printed table lists `crc8` from seed zero in the order of the bytes (R83). -/
theorem crcTable_eq_map : crcTable = (List.range 256).map fun n => crc8 0#8 (BitVec.ofNat 8 n) := by
  decide +kernel

/-- Settles O18: the table is compared whole (`crcTable_eq_map`), and `crc8` rests on the exclusive OR alone. -/
theorem crc8IsTheTable : Obligations.Crc8IsTheTable := by
  unfold Obligations.Crc8IsTheTable
  rw [crcTable_eq_map]
  refine ⟨by rw [List.length_map, List.length_range], fun c b => ?_⟩
  have hlt : (c ^^^ b).toNat < 256 := (c ^^^ b).isLt
  rw [List.getElem?_map, List.getElem?_range hlt, Option.map_some, BitVec.ofNat_toNat, BitVec.setWidth_eq,
    ← crc8_eq_crc8_zero]

/-- Settles O19: `crc8_self` and `crc8_xor`. -/
theorem crc8IsLinear : Obligations.Crc8IsLinear := ⟨crc8_self, crc8_xor⟩

/-- Settles O20: one to one on a finite type is a bijection; the sequences by `crcSeq_ne_of_ne`. -/
theorem oneCorruptedByteChangesTheCrc : Obligations.OneCorruptedByteChangesTheCrc :=
  ⟨fun c => Finite.injective_iff_bijective.1 (crc8_injective c), fun c _ _ before after h => crcSeq_ne_of_ne h c before after⟩

/-- Settles O21: the PEC of a message, fed after it, meets itself. -/
theorem messageWithItsPecLeavesZero : Obligations.MessageWithItsPecLeavesZero := by
  refine ⟨crcSeq_append, fun s => ?_⟩
  rw [crcSeq_append]
  exact crc8_self _

open Polynomial in
/-- Settles O22: the CRC is the message moved up by eight powers modulo the generator (`mk_bytePoly_crcSeq`), and a byte is of
lower degree than the generator. -/
theorem pecIsThePolynomialRemainder : Obligations.PecIsThePolynomialRemainder := by
  intro s
  have hmod : AdjoinRoot.mk generator (bytePoly (crcSeq 0x00 s)) = AdjoinRoot.mk generator (messagePoly s * X ^ 8) := by
    rw [mk_bytePoly_crcSeq]
    simp
  calc bytePoly (crcSeq 0x00 s)
    _ = bytePoly (crcSeq 0x00 s) %ₘ generator :=
        ((modByMonic_eq_self_iff monic_generator).2 (degree_bytePoly_lt _)).symm
    _ = messagePoly s * X ^ 8 %ₘ generator := modByMonic_eq_of_dvd_sub monic_generator (AdjoinRoot.mk_eq_mk.1 hmod)

end Sys2Proof.Machine

namespace Sys2Proof.Machine

/-! # Runs of issued commands (40_crc.md R88, 41_framer.md R108) -/

/-- A run over issued commands takes the first and goes on with the rest. -/
theorem core_run_issueAll_cons {s t : State} {i : Instr} (e : Effect s i t) (is : List Instr) (k : Nat) :
    Sys2Proof.core.run (k + 1) (s.issueAll (i :: is)) = Sys2Proof.core.run k (t.issueAll is) := by
  have hhost : s.host = t.host := (exec_keeps e.exec_eq).2.symm
  have hrest : t.issueAll is = t.take (commandsOf is ++ s.host.script) := by rw [hhost]; rfl
  rw [hrest]
  refine core_run_succ k ((step_cons rfl).trans ?_)
  exact (serve_command (decode_encode i) _).trans (exec_take e.exec_eq _)

/-- A run over CRC_UPDATE of each byte leaves the bytes' CRC, from the seed that stood, and the code `OK` that stood. -/
theorem core_run_crcUpdates (s : State) (c : Byte) (bytes : List Byte) (is : List Instr) (k : Nat) :
    Sys2Proof.core.run (bytes.length + k) ((s.setCrc c).finish.issueAll (bytes.map .crcUpdate ++ is)) =
      Sys2Proof.core.run k ((s.setCrc (crcSeq c bytes)).finish.issueAll is) := by
  induction bytes generalizing c with
  | nil => rw [List.length_nil, Nat.zero_add]; rfl
  | cons b rest ih =>
    have hlen : (b :: rest).length + k = rest.length + k + 1 := by rw [List.length_cons]; omega
    rw [hlen]
    exact (core_run_issueAll_cons (.updated b) _ _).trans (ih _)

/-- The whole check of a sequence against `p`: CRC_LOAD of the seed 0x00, the bytes, and CRC_COMPARE (R88). -/
theorem core_run_check (s : State) (bytes : List Byte) (p : Byte) :
    Sys2Proof.core.run (bytes.length + 2) (s.issueAll (.crcLoad 0x00 :: bytes.map .crcUpdate ++ [.crcCompare p])) =
      .next ((s.setCrc (crcSeq 0x00 bytes)).setCode (if p = crcSeq 0x00 bytes then codeOk else codeChecksum)) := by
  rw [List.cons_append, core_run_issueAll_cons (.loaded 0x00), core_run_crcUpdates]
  by_cases h : p = crcSeq 0x00 bytes
  · rw [if_pos h]
    exact core_run_issueAll_cons (.equal h.symm) [] 0
  · rw [if_neg h]
    exact core_run_issueAll_cons (.differs (Ne.symm h)) [] 0

/-- Settles O26: `core_run_check` gives the last state whole. -/
theorem generatedPecPassesTheChecker : Obligations.GeneratedPecPassesTheChecker := fun s bytes p =>
  ⟨_, core_run_check s bytes p, rfl, rfl, rfl, rfl, rfl, rfl, rfl, rfl⟩

/-! # The statements about responses and frames (41_framer.md) -/

/-- A read PEC tells apart two registers, two low bytes and two high bytes: each is one byte of what the PEC covers (R103). -/
theorem rpec_ne_of_one_byte {reg lo hi reg' lo' hi' : Byte} (sa : Addr)
    (h : (reg' ≠ reg ∧ lo' = lo ∧ hi' = hi) ∨ (reg' = reg ∧ lo' ≠ lo ∧ hi' = hi) ∨ (reg' = reg ∧ lo' = lo ∧ hi' ≠ hi)) :
    rpec sa reg' lo' hi' ≠ rpec sa reg lo hi := by
  obtain ⟨hne, rfl, rfl⟩ | ⟨rfl, hne, rfl⟩ | ⟨rfl, rfl, hne⟩ := h
  · exact crcSeq_ne_of_ne hne _ [wAddr sa] [rAddr sa, lo', hi']
  · exact crcSeq_ne_of_ne hne _ [wAddr sa, reg', rAddr sa] [hi']
  · exact crcSeq_ne_of_ne hne _ [wAddr sa, reg', rAddr sa, lo'] []

/-- Settles O34: the PEC of the changed bytes differs (`rpec_ne_of_one_byte`), so the response is rejected. -/
theorem corruptedResponseIsRefused : Obligations.CorruptedResponseIsRefused := by
  intro s t reg lo hi reg' lo' hi' hchange h
  cases exec_iff_effect.1 h with
  | accepted heq => exact absurd heq (rpec_ne_of_one_byte _ hchange)
  | rejected => exact ⟨rfl, rfl, rfl⟩

/-- Settles O35: the checker over the four bytes of a write PEC (`core_run_check`), the response that bears its PEC, and the two
PECs by computation. -/
theorem framesRoundTrip : Obligations.FramesRoundTrip := by
  refine ⟨fun s t reg data hp h => ?_, fun s reg lo hi => ⟨_, (Effect.accepted rfl).exec_eq, rfl, rfl⟩, by decide +kernel⟩
  cases (Effect.frameBuilt data hp).exec_eq.symm.trans h
  have hpec : frameByte (s.frameWrite reg data).finish.regs.txf 3 = crcSeq 0x00 (writeBytes s.regs.sa reg data) :=
    frameByte_packWrite_3 _ _ _
  refine ⟨_, core_run_check _ (writeBytes s.regs.sa reg data) _, ?_⟩
  exact if_pos hpec

theorem wAddr_toNat (a : Addr) : (wAddr a).toNat = 2 * a.toNat := by
  have := a.isLt
  simp only [wAddr, BitVec.toNat_shiftLeft, BitVec.toNat_setWidth, Nat.shiftLeft_eq]
  omega

/-- The read bit stands in the bit that the shift left free (R43). -/
theorem rAddr_toNat (a : Addr) : (rAddr a).toNat = 2 * a.toNat + 1 := by
  have hfree : wAddr a &&& 0x01 = 0#8 := by
    revert a
    decide
  rw [rAddr, ← wAddr, ← BitVec.add_eq_or_of_and_eq_zero _ _ hfree]
  have := wAddr_toNat a
  have := a.isLt
  bv_omega

/-- Settles O27: `wAddr_toNat` and `rAddr_toNat`, and the default address by computation. -/
theorem addressBytesCarryTheReadBit : Obligations.AddressBytesCarryTheReadBit :=
  ⟨fun a => ⟨wAddr_toNat a, rAddr_toNat a⟩, rfl, rfl⟩

end Sys2Proof.Machine


namespace Sys2Proof.Machine

/-! # The host driver's operations, said once (41_framer.md R109, R110; 70_reset_and_hazards.md R161 to R163)

`Driver.answered` and `Driver.waited` name what a command and a wait do to the host; the lemmas after them say what each
sequence of operations comes to. -/

@[simp] theorem codeError_ok : codeError codeOk = none := rfl
@[simp] theorem codeError_checksum : codeError codeChecksum = some .checksum := rfl
@[simp] theorem codeError_protected : codeError codeProtected = some .protectedRegister := rfl
@[simp] theorem codeError_range : codeError codeRange = some .range := rfl

/-- The host after a command that left its block in the state `b`: it has noted the error that the code stands for. -/
def Driver.answered (d : Driver) (b : State) : Driver := ({ d with block := b } : Driver).note (codeError b.regs.code)

/-- The host after a wait of at least `ms` milliseconds. -/
def Driver.waited (d : Driver) (ms : Nat) : Driver := { d with log := d.log ++ [.waited ms] }

section
variable (d : Driver) (b : State) (ms : Nat)

@[simp] theorem Driver.answered_block : (d.answered b).block = b := rfl
@[simp] theorem Driver.answered_acks : (d.answered b).acks = d.acks := rfl
@[simp] theorem Driver.answered_responses : (d.answered b).responses = d.responses := rfl
@[simp] theorem Driver.answered_received : (d.answered b).received = d.received := rfl
@[simp] theorem Driver.answered_log : (d.answered b).log = d.log := rfl
@[simp] theorem Driver.answered_error : (d.answered b).error = (d.error <|> codeError b.regs.code) := rfl

@[simp] theorem Driver.waited_block : (d.waited ms).block = d.block := rfl
@[simp] theorem Driver.waited_acks : (d.waited ms).acks = d.acks := rfl
@[simp] theorem Driver.waited_log : (d.waited ms).log = d.log ++ [.waited ms] := rfl
@[simp] theorem Driver.waited_error : (d.waited ms).error = d.error := rfl

end

/-- The host's issue of a command leaves the block in an outcome of the command, and no other way. -/
theorem Driver.issue_eq_next_iff {d e : Driver} {i : Instr} :
    d.issue i = .next e ↔ ∃ b, Effect d.block i b ∧ e = d.answered b := by
  constructor
  · intro h
    obtain ⟨b, hb⟩ := exists_effect d.block i
    cases (d.issue_of (decode_encode i) hb.exec_eq).symm.trans h
    exact ⟨b, hb, rfl⟩
  · rintro ⟨b, hb, rfl⟩
    exact d.issue_of (decode_encode i) hb.exec_eq

theorem Effect.issue {d : Driver} {i : Instr} {b : State} (e : Effect d.block i b) : d.issue i = .next (d.answered b) :=
  Driver.issue_eq_next_iff.2 ⟨b, e, rfl⟩

/-- The items after a command. -/
theorem Effect.performAll_cons {d : Driver} {i : Instr} {b : State} (e : Effect d.block i b) (rest : List Item) :
    d.performAll (.command i :: rest) = (d.answered b).performAll rest :=
  d.performAll_cons (x := .command i) rest e.issue

/-- A frame is sent when the code is `OK`, and only then (R67). -/
theorem Driver.perform_sendFrameIfOk (d : Driver) :
    d.perform (.host .sendFrameIfOk) = .next (if d.block.regs.code = codeOk then d.send else d) := by
  rw [← d.code_eq]
  rfl

/-- The three bytes received are checked (R110). -/
theorem Driver.perform_checkReceived_some {d : Driver} {lo hi pec : Byte} (reg : Byte)
    (h : d.received = some (lo, hi, pec)) : d.perform (.checkReceived reg) = d.issue (.checkRead reg lo hi pec) := by
  simp only [Driver.perform, h]

/-- With nothing received, nothing is checked (R110). -/
theorem Driver.perform_checkReceived_none {d : Driver} (reg : Byte) (h : d.received = none) :
    d.perform (.checkReceived reg) = .next d := by
  simp only [Driver.perform, h]

/-- The items after some that answer a next driver. -/
theorem Driver.performAll_append {d e : Driver} {xs : List Item} (h : d.performAll xs = .next e) (ys : List Item) :
    d.performAll (xs ++ ys) = e.performAll ys := by
  induction xs generalizing d with
  | nil => cases h; rfl
  | cons x rest ih =>
    cases hx : d.perform x with
    | next u =>
      rw [Driver.performAll_cons d rest hx] at h
      rw [List.cons_append, Driver.performAll_cons d _ hx, ih h]
    | fault f => simp [Driver.performAll, hx] at h
    | refused r => simp [Driver.performAll, hx] at h

/-! ## Writes -/

/-- The host after WRITE_WORD of a register that is not protected: the frame is built and given to the transport. -/
def Driver.wordSent (d : Driver) (reg : Byte) (data : Data) : Driver :=
  (d.answered (d.block.frameWrite reg data).finish).send

/-- The host after WRITE_WORD of a protected register: the block has refused it. -/
def Driver.wordRefused (d : Driver) : Driver := d.answered ((d.block.setTxlen 0).fail codeProtected)

section
variable (d : Driver) (reg : Byte) (data : Data)

@[simp] theorem Driver.wordSent_sa : (d.wordSent reg data).block.regs.sa = d.block.regs.sa := rfl
@[simp] theorem Driver.wordSent_params : (d.wordSent reg data).block.params = d.block.params := rfl
@[simp] theorem Driver.wordSent_acks : (d.wordSent reg data).acks = d.acks.tail := rfl
@[simp] theorem Driver.wordSent_error : (d.wordSent reg data).error =
    (d.error <|> if d.acks.headD false then none else some .transport) := by
  simp [Driver.wordSent]

/-- The four bytes of a write frame are given to the transport, register first and PEC last (R27, R105). -/
@[simp] theorem Driver.wordSent_log : (d.wordSent reg data).log =
    d.log ++ [.sent [reg, dataLo data, dataHi data, wpec d.block.regs.sa reg data] (d.acks.headD false)] := by
  rw [Driver.wordSent, Driver.send_log, Driver.answered_block, frame_of_txlen_4 _ rfl]
  simp

@[simp] theorem Driver.wordRefused_params : d.wordRefused.block.params = d.block.params := rfl
@[simp] theorem Driver.wordRefused_acks : d.wordRefused.acks = d.acks := rfl
@[simp] theorem Driver.wordRefused_log : d.wordRefused.log = d.log := rfl
@[simp] theorem Driver.wordRefused_error : d.wordRefused.error = (d.error <|> some .protectedRegister) := rfl

/-- WRITE_WORD of a register that is not protected (R67, R105). -/
theorem Driver.performAll_writeWord_allowed (hp : d.block.params.isProtected reg = false) :
    d.performAll (writeWordItems reg data) = .next (d.wordSent reg data) := by
  refine ((Effect.frameBuilt data hp).performAll_cons _).trans (Driver.performAll_cons _ _ ?_)
  rw [Driver.perform_sendFrameIfOk]
  exact congrArg _ (if_pos rfl)

/-- WRITE_WORD of a protected register (R67, R133). -/
theorem Driver.performAll_writeWord_refused (hp : d.block.params.isProtected reg = true) :
    d.performAll (writeWordItems reg data) = .next d.wordRefused := by
  refine ((Effect.frameRefused data hp).performAll_cons _).trans (Driver.performAll_cons _ _ ?_)
  rw [Driver.perform_sendFrameIfOk]
  exact congrArg _ (if_neg (by decide : ¬ codeProtected = codeOk))

end

/-- A phase of the EEPROM sequence is its WRITE_WORD and its wait. -/
theorem Driver.performAll_phase {d e : Driver} {reg : Byte} {data : Data} (ms : Nat)
    (h : d.performAll (writeWordItems reg data) = .next e) :
    d.performAll (phaseItems reg data ms) = .next (e.waited ms) :=
  (Driver.performAll_append h _).trans rfl

/-- The EEPROM sequence is its two phases, each begun without an error, and the report has the error of each (R109). -/
theorem Driver.eepromWrite_of_writeWords {d e w : Driver} {reg : Byte} {data : Data}
    (herase : d.begin.performAll (writeWordItems reg 0x0000) = .next e)
    (hwrite : (e.waited 5).begin.performAll (writeWordItems reg data) = .next w) :
    d.eepromWrite reg data = .next { driver := w.waited 5, erase := e.error, write := w.error } := by
  simp only [Driver.eepromWrite, Driver.performAll_phase Config.tEraseMs herase]
  have hphase : (e.waited Config.tEraseMs).begin.performAll (phaseItems reg data Config.tWriteMs) = .next (w.waited 5) :=
    Driver.performAll_phase Config.tWriteMs hwrite
  simp only [hphase, Driver.waited_error]

/-- Settles O48: both phases are WRITE_WORDs of a register that is not protected; the first keeps `SA` and the parameters. -/
theorem eepromWriteErasesThenWrites : Obligations.EepromWriteErasesThenWrites := by
  intro d reg data hp ok1 ok2 sa
  refine ⟨_, Driver.eepromWrite_of_writeWords (Driver.performAll_writeWord_allowed _ _ _ hp)
    (Driver.performAll_writeWord_allowed _ _ _ hp), ?_, ?_, ?_⟩ <;> simp [dataLo, dataHi, ok1, ok2, sa]

/-- Settles O49: both phases are WRITE_WORDs of a protected register; the first keeps the parameters. -/
theorem eepromWriteOfProtectedRegisterSendsNothing : Obligations.EepromWriteOfProtectedRegisterSendsNothing := by
  intro d reg data hp
  refine ⟨_, Driver.eepromWrite_of_writeWords (Driver.performAll_writeWord_refused _ _ _ hp)
    (Driver.performAll_writeWord_refused _ _ _ hp), ?_, ?_, ?_, ?_⟩ <;> simp

/-- Settles O54: a backed register by O48 and O49, another by its one WRITE_WORD. -/
theorem registerWriteReportsEachPhase : Obligations.RegisterWriteReportsEachPhase := by
  intro d backed reg data ok1 ok2 sa writeFrame
  refine ⟨fun hp hb => ?_, fun hp hb => ?_, fun hp => ?_⟩
  · rw [d.writeRegister_backed data hb]
    exact eepromWriteErasesThenWrites d reg data hp
  · refine ⟨_, d.writeRegister_word hb (Driver.performAll_writeWord_allowed _ _ _ hp), ?_, rfl, ?_⟩ <;>
      simp [dataLo, dataHi, ok1, sa, writeFrame]
  · cases hb : backed reg with
    | true =>
      obtain ⟨r, hr, hlog, hacks, herase, hwrite⟩ := eepromWriteOfProtectedRegisterSendsNothing d reg data hp
      exact ⟨r, (d.writeRegister_backed data hb).trans hr, hacks, hlog, herase, hwrite⟩
    | false =>
      refine ⟨_, d.writeRegister_word hb (Driver.performAll_writeWord_refused _ _ _ hp), ?_, ?_, rfl, ?_⟩ <;> simp

/-! ## What is given to the transport -/

/-- A frame that a host may give to the transport: if it has the four bytes of a write frame, its register is not protected. -/
def FrameAllowed (p : Params) (frame : List Byte) : Prop :=
  frame.length = 4 → ∃ reg rest, frame = reg :: rest ∧ p.isProtected reg = false

/-- The frame that stands in safe registers is allowed. -/
theorem Regs.Safe.frameAllowed {p : Params} {r : Regs} (h : r.Safe p) : FrameAllowed p r.frame := by
  intro hlen
  obtain h0 | h1 | h4 := h.txlen_legal
  · simp [frame_of_txlen_0 r h0] at hlen
  · simp [frame_of_txlen_1 r h1] at hlen
  · exact ⟨_, _, frame_of_txlen_4 r h4, h.write_allowed h4⟩

/-- An event gives the transport no frame but an allowed one. -/
def BusEvent.Allowed (p : Params) : BusEvent → Prop
  | .sent frame _ => FrameAllowed p frame
  | .received frame _ => FrameAllowed p frame
  | .waited _ => True

/-- From `d` the host has come to `e` with its block safe, the parameters as they were, and only allowed events logged. -/
structure Driver.SafelyTo (d e : Driver) : Prop where
  block_safe : e.block.Safe
  params : e.block.params = d.block.params
  log : ∃ events, e.log = d.log ++ events ∧ ∀ x ∈ events, BusEvent.Allowed d.block.params x

/-- The block has changed to a safe one with the same parameters, and nothing was logged. -/
theorem Driver.SafelyTo.of_log_eq {d e : Driver} (hs : e.block.Safe) (hp : e.block.params = d.block.params)
    (hlog : e.log = d.log) : d.SafelyTo e :=
  ⟨hs, hp, [], by rw [hlog, List.append_nil], nofun⟩

/-- The block is as it was, and one allowed event was logged. -/
theorem Driver.SafelyTo.of_event {d e : Driver} {x : BusEvent} (hs : d.block.Safe) (hb : e.block = d.block)
    (hlog : e.log = d.log ++ [x]) (hx : x.Allowed d.block.params) : d.SafelyTo e :=
  ⟨hb ▸ hs, by rw [hb], [x], hlog, by simpa using hx⟩

theorem Driver.SafelyTo.trans {d e f : Driver} (h : d.SafelyTo e) (h' : e.SafelyTo f) : d.SafelyTo f := by
  obtain ⟨-, hp, events, hlog, hall⟩ := h
  obtain ⟨hs', hp', events', hlog', hall'⟩ := h'
  refine ⟨hs', hp'.trans hp, events ++ events', by rw [hlog', hlog, List.append_assoc], fun x hx => ?_⟩
  obtain hx | hx := List.mem_append.1 hx
  · exact hall x hx
  · exact hp ▸ hall' x hx

theorem Driver.issue_safelyTo {d e : Driver} {i : Instr} (hs : d.block.Safe) (h : d.issue i = .next e) : d.SafelyTo e := by
  obtain ⟨b, hb, rfl⟩ := Driver.issue_eq_next_iff.1 h
  exact .of_log_eq (hb.safe hs) (exec_keeps hb.exec_eq).1 rfl

/-- Every item of a host keeps its block safe and gives the transport only allowed frames. -/
theorem Driver.perform_safelyTo {d e : Driver} {x : Item} (hs : d.block.Safe) (h : d.perform x = .next e) :
    d.SafelyTo e := by
  cases x with
  | command i => exact Driver.issue_safelyTo hs h
  | checkReceived reg =>
    cases hr : d.received with
    | some r => exact Driver.issue_safelyTo hs ((Driver.perform_checkReceived_some reg hr).symm.trans h)
    | none =>
      cases (Driver.perform_checkReceived_none reg hr).symm.trans h
      exact .of_log_eq hs rfl rfl
  | host a =>
    cases a with
    | sendFrameIfOk =>
      cases h
      split
      next => exact .of_event hs rfl d.send_log hs.frameAllowed
      next => exact .of_log_eq hs rfl rfl
    | readTransaction => cases h; exact .of_event hs rfl d.transact_log hs.frameAllowed
    | wait ms => cases h; exact .of_event hs rfl rfl trivial

theorem Driver.performAll_safelyTo {d e : Driver} {items : List Item} (hs : d.block.Safe)
    (h : d.performAll items = .next e) : d.SafelyTo e := by
  induction items generalizing d with
  | nil => cases h; exact .of_log_eq hs rfl rfl
  | cons x rest ih =>
    cases hx : d.perform x with
    | next u =>
      have hu : d.SafelyTo u := Driver.perform_safelyTo hs hx
      rw [Driver.performAll_cons d rest hx] at h
      exact hu.trans (ih hu.block_safe h)
    | fault f => simp [Driver.performAll, hx] at h
    | refused r => simp [Driver.performAll, hx] at h

/-- Settles O50: by induction on the items (`Driver.performAll_safelyTo`). -/
theorem noProtectedWriteReachesTheTransport : Obligations.NoProtectedWriteReachesTheTransport := by
  intro d e items hs h
  obtain ⟨hsafe, -, events, hlog, hall⟩ := Driver.performAll_safelyTo hs h
  refine ⟨hsafe, events, hlog, fun frame hframe => ?_⟩
  obtain ⟨ok, hmem⟩ | ⟨response, hmem⟩ := hframe
  · exact hall _ hmem
  · exact hall _ hmem

/-! ## Reads -/

/-- The host gets a value when no error stands, and it is `RDATA` (R110). -/
theorem Driver.value_eq_ok_iff {d : Driver} {v : Data} : d.value = .ok v ↔ d.error = none ∧ d.block.regs.rdata = v := by
  unfold Driver.value
  cases d.error <;> simp

/-- The host gets the error that stands (R110). -/
theorem Driver.value_eq_error_iff {d : Driver} {x : HostError} : d.value = .error x ↔ d.error = some x := by
  unfold Driver.value
  cases d.error <;> simp

/-- An attempt that gets a response ends in its check (R163). -/
theorem Driver.readAttempts_some {d : Driver} {lo hi pec : Byte} (reg : Byte) (n : Nat)
    (h : d.responses.headD none = some (lo, hi, pec)) :
    d.readAttempts reg (n + 1) = d.transact.issue (.checkRead reg lo hi pec) := by
  have hr : d.transact.received = some (lo, hi, pec) := h
  simp only [Driver.readAttempts, hr, Driver.perform_checkReceived_some reg hr]

/-- An attempt that gets none is followed by the next (R163). -/
theorem Driver.readAttempts_none {d : Driver} (reg : Byte) (n : Nat) (h : d.responses.headD none = none) :
    d.readAttempts reg (n + 1) = d.transact.readAttempts reg n := by
  have hr : d.transact.received = none := h
  simp only [Driver.readAttempts, hr]

/-- The attempts of a read always end in a next state of the host. -/
theorem Driver.exists_readAttempts_next (d : Driver) (reg : Byte) (n : Nat) : ∃ t, d.readAttempts reg n = .next t := by
  induction n generalizing d with
  | zero => exact ⟨_, rfl⟩
  | succ n ih =>
    cases hr : d.responses.headD none with
    | none =>
      obtain ⟨t, ht⟩ := ih d.transact
      exact ⟨t, (Driver.readAttempts_none reg n hr).trans ht⟩
    | some r =>
      obtain ⟨b, hb⟩ := exists_effect d.transact.block (.checkRead reg r.1 r.2.1 r.2.2)
      exact ⟨_, (Driver.readAttempts_some reg n hr).trans hb.issue⟩

/-- The block after CHECK_READ of a response that bears its PEC. -/
def State.checked (s : State) (reg lo hi : Byte) : State :=
  (((s.setCrc (rpec s.regs.sa reg lo hi)).setRdata (packData lo hi)).setRdv true).finish

/-- What the check of a response with a PEC gives the caller: its data if the PEC is right, else a checksum error (R107). -/
def checkedValue (sa : Addr) (reg lo hi pec : Byte) : Except HostError Data :=
  if rpec sa reg lo hi = pec then .ok (hi ++ lo) else .error .checksum

/-- The check of a response by a host without an error. -/
theorem Driver.value_of_checkRead {d : Driver} {reg lo hi pec : Byte} {b : State} (hd : d.error = none)
    (e : Effect d.block (.checkRead reg lo hi pec) b) :
    (d.answered b).value = checkedValue d.block.regs.sa reg lo hi pec := by
  unfold checkedValue
  cases e with
  | accepted h =>
    rw [if_pos h, Driver.value_eq_ok_iff]
    exact ⟨by simp [hd], rfl⟩
  | rejected h =>
    rw [if_neg h, Driver.value_eq_error_iff]
    simp [hd]

/-- Fewer transport errors than attempts, then a response: the response is checked, and none after it is read (R163). -/
theorem Driver.readAttempts_of_response {d : Driver} {n k : Nat} {reg lo hi pec : Byte}
    {rest : List (Option (Byte × Byte × Byte))} (hk : k < n) (hd : d.error = none)
    (hr : d.responses = List.replicate k none ++ some (lo, hi, pec) :: rest) :
    ∃ t, d.readAttempts reg n = .next t ∧ t.responses = rest ∧ t.value = checkedValue d.block.regs.sa reg lo hi pec := by
  obtain ⟨n, rfl⟩ := Nat.exists_eq_add_one_of_ne_zero (Nat.ne_zero_of_lt hk)
  induction k generalizing d n with
  | zero =>
    obtain ⟨b, hb⟩ := exists_effect d.transact.block (.checkRead reg lo hi pec)
    refine ⟨_, (Driver.readAttempts_some reg n (by rw [hr]; rfl)).trans hb.issue, ?_, Driver.value_of_checkRead hd hb⟩
    rw [Driver.answered_responses, Driver.transact_responses, hr]
    rfl
  | succ k ih =>
    have hr' : d.transact.responses = List.replicate k none ++ some (lo, hi, pec) :: rest := by
      rw [Driver.transact_responses, hr]
      rfl
    obtain ⟨m, rfl⟩ := Nat.exists_eq_add_one_of_ne_zero (Nat.ne_zero_of_lt (Nat.lt_of_succ_lt_succ hk))
    rw [Driver.readAttempts_none reg _ (by rw [hr]; rfl)]
    exact ih (d := d.transact) hd hr' m (Nat.lt_of_succ_lt_succ hk)

/-- As many transport errors as attempts: a transport error, and nothing after them is read (R163). -/
theorem Driver.readAttempts_of_no_response {d : Driver} {n : Nat} {reg : Byte} {rest : List (Option (Byte × Byte × Byte))}
    (hd : d.error = none) (hr : d.responses = List.replicate n none ++ rest) :
    ∃ t, d.readAttempts reg n = .next t ∧ t.responses = rest ∧ t.value = .error .transport := by
  induction n generalizing d with
  | zero => exact ⟨_, rfl, hr, Driver.value_eq_error_iff.2 (by simp [hd])⟩
  | succ n ih =>
    have hr' : d.transact.responses = List.replicate n none ++ rest := by
      rw [Driver.transact_responses, hr]
      rfl
    rw [Driver.readAttempts_none reg n (by rw [hr]; rfl)]
    exact ih (d := d.transact) hd hr'

/-- Attempts that end without an error ended in a response that bears its PEC, the last event of the log (R107, R110). -/
theorem Driver.readAttempts_validated {d t : Driver} {n : Nat} {reg : Byte} (h : d.readAttempts reg n = .next t)
    (ht : t.error = none) : ∃ lo hi, t.block = d.block.checked reg lo hi ∧
      t.log.getLast? = some (.received d.block.regs.frame (some (lo, hi, rpec d.block.regs.sa reg lo hi))) := by
  induction n generalizing d with
  | zero =>
    cases h
    simp at ht
  | succ n ih =>
    cases hr : d.responses.headD none with
    | none => exact ih (d := d.transact) ((Driver.readAttempts_none reg n hr).symm.trans h)
    | some r =>
      obtain ⟨lo, hi, pec⟩ := r
      obtain ⟨b, hb, rfl⟩ := Driver.issue_eq_next_iff.1 ((Driver.readAttempts_some reg n hr).symm.trans h)
      cases hb with
      | accepted hpec =>
        refine ⟨lo, hi, rfl, ?_⟩
        rw [Driver.answered_log, Driver.transact_log, List.getLast?_concat, hr, ← hpec]
        rfl
      | rejected => simp at ht

/-- The host with a read's command frame standing, before its attempts. -/
def Driver.readFramed (d : Driver) (reg : Byte) : Driver :=
  d.begin.answered ((d.block.setTxf (packRead reg)).setTxlen 1).finish

section
variable (d : Driver) (reg : Byte)

@[simp] theorem Driver.readFramed_responses : (d.readFramed reg).responses = d.responses := rfl
@[simp] theorem Driver.readFramed_error : (d.readFramed reg).error = none := rfl
@[simp] theorem Driver.readFramed_sa : (d.readFramed reg).block.regs.sa = d.block.regs.sa := rfl

@[simp] theorem Driver.readFramed_frame : (d.readFramed reg).block.regs.frame = [reg] := by
  rw [frame_of_txlen_1 _ rfl]
  exact congrArg (fun b => [b]) (frameByte_packRead reg)

/-- A read is FRAME_READ, once, and the attempts (R110). -/
theorem Driver.readWord_eq (cap : Nat) : d.readWord cap reg = (d.readFramed reg).readAttempts reg cap := by
  have h : d.begin.issue (.frameRead reg) = .next (d.readFramed reg) := (Effect.readFramed reg).issue
  simp only [Driver.readWord, h]

end

/-- Settles O51: the attempts after FRAME_READ, with a response below the cap and with none. -/
theorem readIsRetriedOnlyOnTransportError : Obligations.ReadIsRetriedOnlyOnTransportError := by
  refine ⟨fun d cap k reg lo hi pec rest hk hr => ?_, fun d cap reg rest hr => ?_⟩ <;> rw [Driver.readWord_eq]
  · exact Driver.readAttempts_of_response hk rfl hr
  · exact Driver.readAttempts_of_no_response rfl hr

/-- A read that ends without an error ended in a response that bears its PEC for the register sent (R107, R110). -/
theorem Driver.readWord_validated {d t : Driver} {cap : Nat} {reg : Byte} (h : d.readWord cap reg = .next t)
    (ht : t.error = none) : ∃ lo hi, t.block = (d.readFramed reg).block.checked reg lo hi ∧
      t.log.getLast? = some (.received [reg] (some (lo, hi, rpec d.block.regs.sa reg lo hi))) := by
  rw [Driver.readWord_eq] at h
  simpa using Driver.readAttempts_validated h ht

/-- Settles O52: a value means no error, and `Driver.readWord_validated`. -/
theorem readGivesOnlyAValidatedValue : Obligations.ReadGivesOnlyAValidatedValue := by
  intro d t cap reg v h hv
  obtain ⟨herror, hrdata⟩ := Driver.value_eq_ok_iff.1 hv
  obtain ⟨lo, hi, hblock, hlog⟩ := Driver.readWord_validated h herror
  rw [← hrdata, hblock]
  exact ⟨lo, hi, rfl, hlog, rfl, rfl, rfl⟩

/-! ## Start -/

/-- The host with the address `a` taken by its block, before the read of the stored address. -/
def Driver.addressed (d : Driver) (a : Byte) : Driver := d.begin.answered (d.block.setSa (addrOf a)).finish

@[simp] theorem Driver.addressed_error (d : Driver) (a : Byte) : (d.addressed a).error = none := rfl

section
variable {d : Driver} {a : Byte} (cap : Nat) (reg : Byte) (same : Byte → Data → Bool)

/-- A start whose address is refused ends there (R161). -/
theorem Driver.start_refused (h : refusesAddr d.block.params a = true) :
    d.start true a cap reg same = .next (d.begin.answered (d.block.fail codeRange)) := by
  have hissue : d.begin.issue (.setAddr a) = .next (d.begin.answered (d.block.fail codeRange)) :=
    Effect.issue (d := d.begin) (.addrRefused h)
  simp [Driver.start, hissue]

/-- An address that is not refused is taken (R104). -/
theorem Driver.issue_setAddr (h : refusesAddr d.block.params a = false) :
    d.begin.issue (.setAddr a) = .next (d.addressed a) :=
  Effect.issue (d := d.begin) (.addrSet h)

variable {cap reg} {r : Driver} (ha : refusesAddr d.block.params a = false)
  (hr : (d.addressed a).readWord cap reg = .next r)
include ha hr

/-- A start whose read gives a value ends in the comparison of it (R161). -/
theorem Driver.start_of_value {v : Data} (hv : r.value = .ok v) :
    d.start true a cap reg same = .next (if same a v then r else r.note (some .validation)) := by
  simp [Driver.start, Driver.issue_setAddr ha, hr, hv]

/-- A start whose read gives an error ends with that error (R161). -/
theorem Driver.start_of_error {x : HostError} (hv : r.value = .error x) : d.start true a cap reg same = .next r := by
  simp [Driver.start, Driver.issue_setAddr ha, hr, hv]

end

/-- A start without an error: the address was taken, and the read gave a value that the comparison accepts (R161). -/
theorem Driver.start_validated {d t : Driver} {a : Byte} {cap : Nat} {reg : Byte} {same : Byte → Data → Bool}
    (h : d.start true a cap reg same = .next t) (ht : t.error = none) :
    refusesAddr d.block.params a = false ∧ (d.addressed a).readWord cap reg = .next t ∧
      same a t.block.regs.rdata = true := by
  cases ha : refusesAddr d.block.params a with
  | true =>
    cases (Driver.start_refused cap reg same ha).symm.trans h
    simp at ht
  | false =>
    obtain ⟨r, hr⟩ := Driver.exists_readAttempts_next ((d.addressed a).readFramed reg) reg cap
    rw [← Driver.readWord_eq] at hr
    cases hv : r.value with
    | error x =>
      cases (Driver.start_of_error same ha hr hv).symm.trans h
      simp [Driver.value_eq_error_iff.1 hv] at ht
    | ok v =>
      obtain ⟨-, hrdata⟩ := Driver.value_eq_ok_iff.1 hv
      cases (Driver.start_of_value same ha hr hv).symm.trans h
      cases hsame : same a v with
      | true => rw [if_pos rfl]; exact ⟨rfl, hr, by rw [hrdata, hsame]⟩
      | false => simp [hsame] at ht

/-- Settles O53: a start without an error by `Driver.start_validated` and `Driver.readWord_validated`; a first response that
bears its PEC gives its data, which the comparison then refuses. -/
theorem startSucceedsOnlyOnTheStoredAddress : Obligations.StartSucceedsOnlyOnTheStoredAddress := by
  refine fun d a cap reg same => ⟨⟨_, rfl, rfl, rfl⟩, fun t h ht => ?_, fun lo hi rest hcap ha hresp hsame => ?_⟩
  · obtain ⟨ha, hr, hsame⟩ := Driver.start_validated h ht
    obtain ⟨lo, hi, hblock, hlog⟩ := Driver.readWord_validated hr ht
    have hrdata : t.block.regs.rdata = hi ++ lo := by rw [hblock]; rfl
    have hsa : t.block.regs.sa = addrOf a := by rw [hblock]; rfl
    have hcode : t.block.regs.code = codeOk := by rw [hblock]; rfl
    have hrdv : t.block.regs.rdv = true := by rw [hblock]; rfl
    exact ⟨ha, hsa, lo, hi, Driver.value_eq_ok_iff.2 ⟨ht, hrdata⟩, hrdata ▸ hsame, hlog, hcode, hrdv, hrdata⟩
  · obtain ⟨hread, -⟩ := readIsRetriedOnlyOnTransportError
    obtain ⟨r, hr, -, hv⟩ := hread (d.addressed a) cap 0 reg lo hi _ rest hcap hresp
    have hvalue : r.value = .ok (hi ++ lo) := hv.trans (if_pos rfl)
    obtain ⟨herror, -⟩ := Driver.value_eq_ok_iff.1 hvalue
    refine ⟨_, Driver.start_of_value same ha hr hvalue, ?_⟩
    simp [hsame, herror]

end Sys2Proof.Machine
